-- ==== Sys2Proof/Word.lean ====
section
/-! DEFINITION. The word types of the UPLMN codec block: symbols, bytes, records, request and response words, and texts.
Rules R8 (the widths), R9 (every value is unsigned), R11 (symbols) and R12 (texts). -/

namespace Sys2Proof

/-- A symbol, one hexadecimal character of a record (R11); `SYM_WIDTH` is 4 (R8). -/
abbrev Sym := BitVec 4

/-- One byte: an ASCII character code of a text (R12), or a capability byte (R120). -/
abbrev Byte := BitVec 8

/-- A text: a finite sequence of bytes (R12). -/
abbrev Text := List Byte

/-- A request word; `REQ_WIDTH` is 48 (R8, R60). -/
abbrev Request := BitVec 48

/-- The 40-bit field in which a PackedRecord travels inside the block (R44). -/
abbrev Record := BitVec 40

/-- The response word; `RSP_WIDTH` is 64 (R8, R24). -/
abbrev RspWord := BitVec 64

end Sys2Proof
end

