-- ==== Sys2Proof/Syntax.lean ====
section
/-! DEFINITION. The four commands of the UPLMN-CMD set, one constructor for each row of spec/opcode_table.json (R3, R61). -/

namespace Sys2Proof

/-- The operand that carries one MCC or MNC: three symbol slots and a length (R62, R65). -/
structure Code where
  /-- Slot 0: character 0 of the code. -/
  sym0 : Sym
  /-- Slot 1: character 1 of the code. -/
  sym1 : Sym
  /-- Slot 2: character 2 of the code. -/
  sym2 : Sym
  /-- The length of the code's string, saturated at 15; slot i is present when i is below it (R65). -/
  len : BitVec 4
  deriving DecidableEq, Repr

/-- A command with its operands. -/
inductive Instr where
  /-- ENC: encode an MCC/MNC pair (R62, R85). -/
  | enc (mcc mnc : Code)
  /-- DEC: decode the MCC and MNC of a record; all ten nibbles of the record are carried (R63, R105). -/
  | dec (record : Record)
  /-- CAPL: interpret the LTE/UTRAN capability byte (R64, R135). -/
  | capl (b : Byte)
  /-- CAPG: interpret the GSM/CDMA capability byte (R64, R136). -/
  | capg (b : Byte)
  deriving DecidableEq, Repr

end Sys2Proof
end

