-- ==== Sys2Proof/Machine/Bits.lean ====
section
/-! DEFINITION. Bit fields, the order of the nibbles of a record, and characters.
`BitVec.extractLsb hi lo v` is the field the spec writes `v[hi:lo]`, and `a ++ b` is its `{a, b}` (R9). -/

namespace Sys2Proof.Machine

/-- The filler symbol, the source's hexadecimal character `F` (R11). -/
def filler : Sym := 0xF

/-- A digit symbol is one of 0x0..0x9 (R11). -/
def isDigit (x : Sym) : Bool := x.toNat ≤ 9

/-- OP, the command selector: `REQ[47:44]` (R60). -/
def reqOp (w : Request) : BitVec 4 := w.extractLsb 47 44

/-- RSVD: `REQ[43:40]`, which must be 0 (R60). -/
def reqRsvd (w : Request) : BitVec 4 := w.extractLsb 43 40

/-- PAYLOAD: `REQ[39:0]` (R60). -/
def reqPayload (w : Request) : BitVec 40 := w.extractLsb 39 0

/-- RSVD_E: `REQ[7:0]` of an ENC request, which must be 0 (R62). -/
def reqRsvdEnc (w : Request) : BitVec 8 := w.extractLsb 7 0

/-- The reserved part of a CAPL or CAPG request: `REQ[39:8]`, which must be 0 (R64). -/
def reqRsvdCap (w : Request) : BitVec 32 := w.extractLsb 39 8

/-- The symbols r0..r9 of a record: r(k) is bits `[39-4k : 36-4k]` of the 40-bit field (R44, R63). -/
def recordSyms (r : Record) : Vector Sym 10 :=
  #v[r.extractLsb 39 36, r.extractLsb 35 32, r.extractLsb 31 28, r.extractLsb 27 24, r.extractLsb 23 20,
     r.extractLsb 19 16, r.extractLsb 15 12, r.extractLsb 11 8, r.extractLsb 7 4, r.extractLsb 3 0]

/-- The record whose symbols are `v`: `{v[0], ..., v[9]}`, with `v[0]` in bits `[39:36]` (R44). -/
def packSyms (v : Vector Sym 10) : Record :=
  v[0] ++ v[1] ++ v[2] ++ v[3] ++ v[4] ++ v[5] ++ v[6] ++ v[7] ++ v[8] ++ v[9]

/-- Byte Bj of a record: `Bj = {r(2j), r(2j+1)}`, the high nibble first; B0 is bits `[39:32]` and B4 bits `[7:0]`
(R42, R44). -/
def recordByte (r : Record) (j : Fin 5) : Byte := (recordSyms r)[2 * j.val] ++ (recordSyms r)[2 * j.val + 1]

/-- The ENC payload layout, which the DATA of a DEC response shares: three MCC slots, three MNC slots, the two lengths
and a zero byte (R62, R104). -/
def packCodes (mcc mnc : Code) : BitVec 40 :=
  mcc.sym0 ++ mcc.sym1 ++ mcc.sym2 ++ mnc.sym0 ++ mnc.sym1 ++ mnc.sym2 ++ mcc.len ++ mnc.len ++ 0#8

/-- The MCC operand of a payload in the ENC layout (R62). -/
def payloadMcc (p : BitVec 40) : Code :=
  ⟨p.extractLsb 39 36, p.extractLsb 35 32, p.extractLsb 31 28, p.extractLsb 15 12⟩

/-- The MNC operand of a payload in the ENC layout (R62). -/
def payloadMnc (p : BitVec 40) : Code :=
  ⟨p.extractLsb 27 24, p.extractLsb 23 20, p.extractLsb 19 16, p.extractLsb 11 8⟩

/-- The byte of an ASCII character (R12). -/
def chr (c : Char) : Byte := BitVec.ofNat 8 c.toNat

/-- The text of a string literal: the bytes of its characters, all of them ASCII, without quotes and without a
terminator (R12). -/
def txt (s : String) : Text := s.toByteArray.data.toList.map UInt8.toBitVec

end Sys2Proof.Machine
end

