-- ==== Sys2Proof/Config.lean ====
section
/-! DEFINITION. What is fixed when a block or its host software is built: the sizes of rule R8 and the OPEN parameters
of rules R8, R34, R166, R177 and R178.  The texts of the technology-name ROM stand in Machine/NameRom.lean. -/

namespace Sys2Proof

/-- `NAME_MAX`: the greatest length in bytes of one NAME entry (R8, R131). -/
abbrev nameMax : Nat := 32

/-- `TEXT_MAX`: the capacity in bytes of the response text buffer (R8, R139). -/
abbrev textMax : Nat := 164

/-- The OPEN entries of the technology-name ROM: NAME[3], NAME[4], NAME[7] and NAME[8], for which the source gives no
literal text (R34, R131).  Every other entry is fixed by R131. -/
structure OpenNames where
  /-- NAME[3]: E-UTRAN, NB-S1 mode only. -/
  eutranNb : Text
  /-- NAME[4]: E-UTRAN, WB-S1 mode only. -/
  eutranWb : Text
  /-- NAME[7]: GSM only. -/
  gsmOnly : Text
  /-- NAME[8]: EC-GSM-IoT only. -/
  ecGsmOnly : Text
  deriving DecidableEq, Repr

/-- `HOST_LOWERCASE`: what the host does with 'a'..'f' (R8, R166). -/
inductive Lowercase where
  /-- The host rejects the input (the default). -/
  | refuse
  /-- The host maps 'a'..'f' like 'A'..'F'. -/
  | fold
  deriving DecidableEq, Repr

/-- `ERROR_STREAM`: where the host prints an error message (R8, R178). -/
inductive Stream where
  | stdout
  | stderr
  deriving DecidableEq, Repr

/-- `ERROR_TEXT`: the message text after the `[ERROR]` tag, one for each host error class (R8, R178). -/
structure ErrorTexts where
  pairing : Text
  missingValue : Text
  unknownFlag : Text
  malformed : Text
  deriving DecidableEq, Repr

/-- The parameters of the host software.  No rule of the block depends on one of them. -/
structure HostConfig where
  /-- `HOST_LOWERCASE` (R166). -/
  lowercase : Lowercase
  /-- `ERROR_TEXT` (R178). -/
  errorText : ErrorTexts
  /-- `ERROR_STREAM` (R178). -/
  errorStream : Stream
  /-- The usage text that `-h` prints: any text (R177). -/
  usageText : Text
  /-- The name and version text printed when there are no arguments: any text (R177). -/
  versionText : Text
  /-- Which failing check is reported when several fail: the spec says that one message is printed and not which
  (R178, R179), so this number picks one of them and nothing constrains it. -/
  failurePick : Nat
  deriving DecidableEq, Repr

end Sys2Proof
end

