-- ==== Sys2Proof/WellFormed.lean ====
section
/-! DEFINITION. Well-formedness of commands and of the NAME configuration. -/

namespace Sys2Proof

/-- Every command with its operands is well formed: each operand is a bit vector of exactly its field's width, and the
spec gives every value of each field a meaning (R65 for lengths 0..15, R66 and R100 for symbols, R63 for the record,
R120 for capability bytes).  The checks of R67 are on request words, not on commands: see Decode.lean. -/
def Instr.wellFormed : Instr → Bool
  | .enc _ _ => true
  | .dec _ => true
  | .capl _ => true
  | .capg _ => true

/-- The checks of R131 on one NAME entry: an ASCII text of at most NAME_MAX bytes that contains no byte 0x00. -/
def nameWellFormed (t : Text) : Bool :=
  decide (t.length ≤ nameMax) && t.all (fun b => decide (0 < b.toNat) && decide (b.toNat < 128))

/-- All four OPEN entries of NAME meet R131. -/
def OpenNames.wellFormed (n : OpenNames) : Bool :=
  nameWellFormed n.eutranNb && nameWellFormed n.eutranWb && nameWellFormed n.gsmOnly && nameWellFormed n.ecGsmOnly

end Sys2Proof
end

