-- ==== Sys2Proof/Decode.lean ====
section
/-! DEFINITION. The decoder, total on the 48-bit request words and rejecting by name, and the encoder
(R60 to R64, R67).  A request is one whole word: there is no byte-addressed view of it and no other length (R46, R60). -/

namespace Sys2Proof

open Sys2Proof.Machine

/-- Why a request word is illegal (R67).  No response records which of them held (R152, R154). -/
inductive IllegalReason where
  /-- R67 (a): OP is 0x0 or in 0x5..0xF. -/
  | reservedOp
  /-- R67 (b): RSVD is not 0. -/
  | reservedField
  /-- R67 (c): OP is ENC and RSVD_E is not 0. -/
  | reservedEnc
  /-- R67 (d): OP is CAPL or CAPG and `REQ[39:8]` is not 0. -/
  | reservedCap
  deriving DecidableEq, Repr

/-- The opcode map (R61): the number of each command. -/
def opcode : Instr → BitVec 4
  | .enc _ _ => 0x1#4
  | .dec _ => 0x2#4
  | .capl _ => 0x3#4
  | .capg _ => 0x4#4

/-- The command a request word selects, or the reason it is illegal (R61, R67). -/
def decode (w : Request) : Except IllegalReason Instr :=
  let op := reqOp w
  if op ≠ 0x1#4 ∧ op ≠ 0x2#4 ∧ op ≠ 0x3#4 ∧ op ≠ 0x4#4 then .error .reservedOp
  else if reqRsvd w ≠ 0#4 then .error .reservedField
  else if op = 0x1#4 then
    if reqRsvdEnc w ≠ 0#8 then .error .reservedEnc
    else .ok (.enc (payloadMcc (reqPayload w)) (payloadMnc (reqPayload w)))
  else if op = 0x2#4 then .ok (.dec (reqPayload w))
  else if reqRsvdCap w ≠ 0#32 then .error .reservedCap
  else if op = 0x3#4 then .ok (.capl (w.extractLsb 7 0))
  else .ok (.capg (w.extractLsb 7 0))

/-- A payload (R62 to R64). -/
def encodePayload : Instr → BitVec 40
  | .enc mcc mnc => packCodes mcc mnc
  | .dec record => record
  | .capl b => 0#32 ++ b
  | .capg b => 0#32 ++ b

/-- The request word of a command: OP, a zero RSVD, and the payload (R60). -/
def encode (i : Instr) : Request := opcode i ++ 0#4 ++ encodePayload i

/-- The command of a request word written as a number, bit 0 the least significant, as spec/opcode_table.json numbers
it.  A row shorter than 48 bits is completed by zeros; a number that needs more than 48 bits is no request word, since
there are no other lengths (R60). -/
def decodeTableWord (nbits w : Nat) : Option Instr :=
  if w % 2 ^ nbits < 2 ^ 48 then (decode (BitVec.ofNat 48 (w % 2 ^ nbits))).toOption else none

end Sys2Proof
end

