-- ==== Sys2Proof/Machine/NameRom.lean ====
section
/-! DEFINITION. The tokens, the technology-name ROM NAME, and the literal texts of a capability response
(R8, R129 to R132). -/

namespace Sys2Proof.Machine

/-- A token: the identifier of one technology phrase (R130).  Token 0 is the empty slot and is never listed; tokens
12..15 are never produced. -/
inductive Token where
  /-- 1: UTRAN. -/
  | utran
  /-- 2: E-UTRAN, both WB-S1 and NB-S1 modes. -/
  | eutranBoth
  /-- 3: E-UTRAN, NB-S1 mode only. -/
  | eutranNb
  /-- 4: E-UTRAN, WB-S1 mode only. -/
  | eutranWb
  /-- 5: NG-RAN. -/
  | ngRan
  /-- 6: GSM and EC-GSM-IoT. -/
  | gsmBoth
  /-- 7: GSM only. -/
  | gsmOnly
  /-- 8: EC-GSM-IoT only. -/
  | ecGsmOnly
  /-- 9: GSM COMPACT. -/
  | gsmCompact
  /-- 10: CDMA2000 HRPD. -/
  | cdmaHrpd
  /-- 11: CDMA2000 1xRTT. -/
  | cdma1x
  deriving DecidableEq, Repr

/-- The 4-bit number of a token (R130). -/
def tokenId : Token → BitVec 4
  | .utran => 1
  | .eutranBoth => 2
  | .eutranNb => 3
  | .eutranWb => 4
  | .ngRan => 5
  | .gsmBoth => 6
  | .gsmOnly => 7
  | .ecGsmOnly => 8
  | .gsmCompact => 9
  | .cdmaHrpd => 10
  | .cdma1x => 11

/-- NAME[token] (R34, R131): the entries 3, 4, 7 and 8 are the configuration's. -/
def nameOf (names : OpenNames) : Token → Text
  | .utran => txt "UTRAN"
  | .eutranBoth => txt "E-UTRAN in WB-S1, NB-S1 modes"
  | .eutranNb => names.eutranNb
  | .eutranWb => names.eutranWb
  | .ngRan => txt "NG-RAN"
  | .gsmBoth => txt "GSM + EC-GSM-IoT"
  | .gsmOnly => names.gsmOnly
  | .ecGsmOnly => names.ecGsmOnly
  | .gsmCompact => txt "GSM COMPACT"
  | .cdmaHrpd => txt "CDMA2000 HRPD"
  | .cdma1x => txt "CDMA2000 1xRTT"

/-- The defaults of the OPEN entries (R131). -/
def defaultNames : OpenNames where
  eutranNb := txt "E-UTRAN in NB-S1 mode only"
  eutranWb := txt "E-UTRAN in WB-S1 mode only"
  gsmOnly := txt "GSM"
  ecGsmOnly := txt "EC-GSM-IoT"

/-- SEP, the separator between technology names (R129). -/
def sep : Text := txt ", "

/-- WARN_TEXT, the reserved-bit warning suffix; it begins with a space (R132). -/
def warnText : Text := txt " -- WARNING: Reserved bits set"

end Sys2Proof.Machine
end

