-- ==== Sys2Proof/Machine/State.lean ====
section
/-! DEFINITION. The state of one block instance, the host interactions the step function reads, the observation of a
run, and the reasons a step can stop (R24, R29, R32 to R34, R165, R199). -/

namespace Sys2Proof.Machine

/-- The response text buffer TEXT: `TEXT_MAX` = 164 bytes (R24). -/
abbrev TextBuffer := Vector Byte textMax

/-- What one completed command leaves in the response register (R24): RSP_WORD, TEXT and TEXT_LEN. -/
structure Response where
  word : RspWord
  text : TextBuffer
  textLen : BitVec 8
  deriving DecidableEq, Repr

/-- What a host read asks for.  Between steps the host may read each response register by itself, or all of them
(R31, R165). -/
inductive ReadTarget where
  /-- RSP_WORD, TEXT, TEXT_LEN and RSP_VALID together. -/
  | response
  /-- RSP_WORD alone. -/
  | rspWord
  /-- TEXT alone. -/
  | text
  /-- TEXT_LEN alone. -/
  | textLen
  /-- RSP_VALID alone, the one read that is allowed before any command has completed (R165). -/
  | rspValid
  deriving DecidableEq, Repr

/-- The host interactions (R165). -/
inductive HostEvent where
  /-- Issue one 48-bit request word. -/
  | issue (w : Request)
  /-- Read the response registers. -/
  | read (what : ReadTarget)
  /-- The reset event (R190). -/
  | reset
  deriving DecidableEq, Repr

/-- What a host read returned (R165, R199). -/
inductive Observation where
  /-- A read of the whole response; RSP_VALID read as 1 with it (R32). -/
  | response (r : Response)
  | rspWord (w : RspWord)
  | text (t : TextBuffer)
  | textLen (n : BitVec 8)
  | rspValid (v : Bool)
  deriving DecidableEq, Repr

/-- The machine.  `rspWord`, `text`, `textLen` and `rspValid` are the architectural state, exactly as R24 lists it.
`names` is the NAME configuration of R34, which nothing writes.  `pending` and `observed` are the model's interface to
the host: the interactions the host is yet to make, and what its reads have returned (R165, R199). -/
structure State where
  /-- RSP_WORD: status, command echo and data of the last completed command (R25). -/
  rspWord : RspWord
  /-- TEXT: the text result of the last completed command (R28). -/
  text : TextBuffer
  /-- TEXT_LEN: the number of valid bytes in TEXT (R28). -/
  textLen : BitVec 8
  /-- RSP_VALID: whether any command has completed since reset (R29). -/
  rspValid : Bool
  /-- The OPEN entries of NAME (R34). -/
  names : OpenNames
  /-- The interactions the host is yet to make, the next one first.  The model's own field. -/
  pending : List HostEvent
  /-- What the host's reads have returned, oldest first (R199). -/
  observed : List Observation
  deriving DecidableEq, Repr

/-- The reasons a step stops with a fault. -/
inductive Fault where
  /-- Raised by a host read of RSP_WORD, TEXT or TEXT_LEN while RSP_VALID is 0, and by nothing else: R32 says that a model
  must treat such a read as a fault, not as a read of zero (also R165, R199, 93_implementation_defined.md I4).
  Safe: the model stops where the spec says a model must fault. -/
  | readBeforeResponse
  deriving DecidableEq, Repr

/-- The reasons a step refuses an instruction. -/
inductive Refusal where
  /-- Raised only by an arm of `exec` whose command has no meaning yet; every command has one, so nothing raises it.
  Safe: the model stops. -/
  | notModelled (mnemonic : String)
  deriving DecidableEq, Repr

/-- The outcome of one step of this machine. -/
abbrev Result := Host.Outcome State Fault Refusal

/-- The block right after reset, with its NAME configuration: RSP_VALID is 0 and nothing is in flight (R33, R198).
RSP_WORD, TEXT and TEXT_LEN hold no value then (R32); the zeros stand there only because each register of the model
holds a value, and no read returns them (DESIGN CHOICE, notes/assumptions/1.md, unsafe). -/
def State.resetWith (names : OpenNames) : State where
  rspWord := 0
  text := Vector.replicate textMax 0
  textLen := 0
  rspValid := false
  names := names
  pending := []
  observed := []

/-- The machine right after reset, its NAME table configured with the defaults of R131
(DESIGN CHOICE, notes/assumptions/2.md). -/
def State.reset : State := State.resetWith defaultNames

end Sys2Proof.Machine
end

