-- ==== Sys2Proof/Machine/Ops.lean ====
section
/-! DEFINITION. The operations over the response register that every command and every host interaction share: packing
a response, completing a command, the ILLEGAL exception, the host's reads, and the reset event. -/

namespace Sys2Proof.Machine

/-- The outcome of a command, the STATUS field (R26, R153); the values 0b10 and 0b11 are never written. -/
inductive Status where
  /-- 0b00: the command executed to its result. -/
  | ok
  /-- 0b01: the request word was rejected. -/
  | illegal
  deriving DecidableEq, Repr

/-- The two bits of a status (R25). -/
def statusBits : Status → BitVec 2
  | .ok => 0b00
  | .illegal => 0b01

/-- STATUS: `RSP_WORD[63:62]` (R25). -/
def rspStatus (w : RspWord) : BitVec 2 := w.extractLsb 63 62

/-- RSVD0: `RSP_WORD[61:60]` (R25). -/
def rspRsvd0 (w : RspWord) : BitVec 2 := w.extractLsb 61 60

/-- OP, the command echo: `RSP_WORD[59:56]` (R25). -/
def rspOp (w : RspWord) : BitVec 4 := w.extractLsb 59 56

/-- RSVD1: `RSP_WORD[55:40]` (R25). -/
def rspRsvd1 (w : RspWord) : BitVec 16 := w.extractLsb 55 40

/-- DATA: `RSP_WORD[39:0]` (R25). -/
def rspData (w : RspWord) : BitVec 40 := w.extractLsb 39 0

/-- RSP_WORD of a status, an OP echo and a result, with the reserved fields 0 (R25). -/
def packRsp (status : Status) (op : BitVec 4) (data : BitVec 40) : RspWord :=
  statusBits status ++ 0#2 ++ op ++ 0#16 ++ data

/-- The text buffer that holds `t`: its bytes, and 0x00 at every index at or above its length (R28). -/
def textBuffer (t : Text) : TextBuffer := Vector.ofFn fun i => t.getD i.val 0

/-- The whole response of a command (R14, R24): `TEXT <- t` writes the buffer and sets `TEXT_LEN <- len(t)` (R13). -/
def mkResponse (status : Status) (op : BitVec 4) (data : BitVec 40) (t : Text) : Response where
  word := packRsp status op data
  text := textBuffer t
  textLen := BitVec.ofNat 8 t.length

/-- Completing a command: RSP_WORD, TEXT, TEXT_LEN and RSP_VALID are written together, in one atomic step, and nothing
else is (R29, R30, R194). -/
def complete (r : Response) (s : State) : State :=
  { s with rspWord := r.word, text := r.text, textLen := r.textLen, rspValid := true }

/-- The response to an illegal request: STATUS ILLEGAL, the OP echo, DATA 0 and the empty text (R27, R152). -/
def illegalResponse (w : Request) : Response := mkResponse .illegal (reqOp w) 0 []

/-- The one exception of the block (R151, R152).  There is no trap: nothing is saved, there is no handler and no return,
and the block stays ready for the next request (R155, R156). -/
def raiseIllegal (w : Request) (s : State) : State := complete (illegalResponse w) s

/-- The response the registers hold. -/
def response (s : State) : Response := ⟨s.rspWord, s.text, s.textLen⟩

/-- What a host read returns, or nothing when it reads a register that holds no value (R31, R32).  RSP_VALID alone is
readable even when it is 0 (DEDUCED, notes/assumptions/6.md). -/
def readResult (what : ReadTarget) (s : State) : Option Observation :=
  match what with
  | .rspValid => some (.rspValid s.rspValid)
  | .response => if s.rspValid then some (.response (response s)) else none
  | .rspWord => if s.rspValid then some (.rspWord s.rspWord) else none
  | .text => if s.rspValid then some (.text s.text) else none
  | .textLen => if s.rspValid then some (.textLen s.textLen) else none

/-- A host read: it changes no register (R31, R48), and it faults when what it reads holds no value: R32 says that a model
must treat such a read as a fault, not as a read of zero, and 93_implementation_defined.md I4 says `fault` and not
`any value`. -/
def hostRead (what : ReadTarget) (s : State) : Result :=
  match readResult what s with
  | some o => .next { s with observed := s.observed ++ [o] }
  | none => .fault .readBeforeResponse

/-- The reset event (R190): RSP_VALID becomes 0, RSP_WORD, TEXT and TEXT_LEN no longer hold a value, and NAME does not
change.  The three registers take the values that `State.resetWith` names (DESIGN CHOICE, notes/assumptions/1.md). -/
def resetEvent (s : State) : State :=
  { State.resetWith s.names with pending := s.pending, observed := s.observed }

/-- The valid bytes of TEXT: the first TEXT_LEN (R24). -/
def responseText (r : Response) : Text := r.text.toList.take r.textLen.toNat

end Sys2Proof.Machine
end

