-- ==== Sys2Proof/Machine/Operands.lean ====
section
/-! DEFINITION. Operand forms: the slots of a code (R65, R81), the interleave and its inverse (R82, R83, R102), filler
removal (R103), and the bits and sub-fields of a capability byte (R66, R121, R124). -/

namespace Sys2Proof.Machine

/-- Slot i of a code is present when `i < LEN`; a LEN of 3 or more makes every slot present (R65). -/
def present (i : Nat) (len : BitVec 4) : Bool := decide (i < len.toNat)

/-- A slot of the normalised code: a present slot keeps its symbol, another takes the filler (R81). -/
def padded (i : Nat) (len : BitVec 4) (sym : Sym) : Sym := if present i len then sym else filler

/-- The code made exactly three symbols long (R81). -/
def normalise (c : Code) : Vector Sym 3 := #v[padded 0 c.len c.sym0, padded 1 c.len c.sym1, padded 2 c.len c.sym2]

/-- The six symbols `u = [m0, m1, m2, n0, n1, n2]` (R82). -/
def concatenate (m n : Vector Sym 3) : Vector Sym 6 := #v[m[0], m[1], m[2], n[0], n[1], n[2]]

/-- The interleave: `[u1, u0, u5, u2, u4, u3]` (R83). -/
def interleave (u : Vector Sym 6) : Vector Sym 6 := #v[u[1], u[0], u[5], u[2], u[4], u[3]]

/-- The record of six symbols with the fixed suffix 4080 (R84). -/
def appendSuffix (o : Vector Sym 6) : Vector Sym 10 :=
  #v[o[0], o[1], o[2], o[3], o[4], o[5], 0x4, 0x0, 0x8, 0x0]

/-- The MCC before filler removal: `c = [r1, r0, r3]` (R102). -/
def selectMcc (r : Vector Sym 10) : List Sym := [r[1], r[0], r[3]]

/-- The MNC before filler removal: `k = [r5, r4, r2]` (R102). -/
def selectMnc (r : Vector Sym 10) : List Sym := [r[5], r[4], r[2]]

/-- Filler removal: every filler is deleted wherever it stands, and the other symbols keep their order (R103). -/
def removeFillers (l : List Sym) : List Sym := l.filter (fun x => x ≠ filler)

/-- A list of symbols in the slots of a code: a slot at or past the length holds the filler (R104). -/
def codeOfSyms (l : List Sym) : Code :=
  ⟨l.getD 0 filler, l.getD 1 filler, l.getD 2 filler, BitVec.ofNat 4 l.length⟩

/-- The symbols of a code that are present: its first LEN slots (R65, R104). -/
def presentSyms (c : Code) : List Sym := [c.sym0, c.sym1, c.sym2].take c.len.toNat

/-- The E-UTRAN mode sub-field `EM = b[5:4]` (R66). -/
def eutranMode (b : Byte) : BitVec 2 := b.extractLsb 5 4

/-- The GSM mode sub-field `GM = b[3:2]` (R66). -/
def gsmMode (b : Byte) : BitVec 2 := b.extractLsb 3 2

/-- The token of an E-UTRAN mode; the values 0 and 3 share one (R122). -/
def eutranToken (em : BitVec 2) : Token := if em = 1 then .eutranNb else if em = 2 then .eutranWb else .eutranBoth

/-- The token of a GSM mode; the values 0 and 3 share one (R125). -/
def gsmToken (gm : BitVec 2) : Token := if gm = 1 then .gsmOnly else if gm = 2 then .ecGsmOnly else .gsmBoth

/-- A token listed when its bit is set (R120). -/
def tokenIf (set : Bool) (t : Token) : List Token := if set then [t] else []

end Sys2Proof.Machine
end

