-- ==== Sys2Proof/Machine/Flags.lean ====
section
/-! DEFINITION. The block has no flags or condition codes (R22).  The one computed condition is the warning bit W of a
capability response, a field of that response (R123, R126, R134). -/

namespace Sys2Proof.Machine

/-- W of the LTE/UTRAN byte: `(b AND 0x07) != 0` (R123). -/
def lteWarn (b : Byte) : Bool := b &&& 0x07 ≠ 0

/-- W of the GSM/CDMA byte: `(b AND 0x03) != 0` (R126). -/
def gsmWarn (b : Byte) : Bool := b &&& 0x03 ≠ 0

end Sys2Proof.Machine
end

