-- ==== Sys2Proof/Machine/Capability.lean ====
section
/-! DEFINITION. The capability-byte interpreter: CAPL and CAPG (R120 to R139). -/

namespace Sys2Proof.Machine

/-- The tokens of the LTE/UTRAN byte, in the order UTRAN, E-UTRAN, NG-RAN (R121, R122, R128). -/
def lteTokens (b : Byte) : List Token :=
  tokenIf (b.getLsbD 7) .utran ++ tokenIf (b.getLsbD 6) (eutranToken (eutranMode b)) ++ tokenIf (b.getLsbD 3) .ngRan

/-- The tokens of the GSM/CDMA byte, in the order GSM mode, GSM COMPACT, CDMA2000 HRPD, CDMA2000 1xRTT
(R124, R125, R128). -/
def gsmTokens (b : Byte) : List Token :=
  tokenIf (b.getLsbD 7) (gsmToken (gsmMode b)) ++ tokenIf (b.getLsbD 6) .gsmCompact ++
    tokenIf (b.getLsbD 5) .cdmaHrpd ++ tokenIf (b.getLsbD 4) .cdma1x

/-- `join(sep, [t0..tk])`: the texts with the separator between them, and the empty text for no texts (R10, R129). -/
def join (separator : Text) (ts : List Text) : Text := separator.intercalate ts

/-- The text of a token list and a warning bit: the names joined, and the warning suffix when W is 1 (R132, R133). -/
def render (names : OpenNames) (toks : List Token) (w : Bool) : Text :=
  join sep (toks.map (nameOf names)) ++ (if w then warnText else [])

/-- Token slot i of a capability response; a slot at or past the count holds 0 (R134). -/
def tokenSlot (toks : List Token) (i : Nat) : BitVec 4 := (toks.map tokenId).getD i 0

/-- DATA of a capability response: TCOUNT, WARN and four token slots (R134). -/
def capabilityData (toks : List Token) (w : Bool) : BitVec 40 :=
  0#20 ++ BitVec.ofNat 3 toks.length ++ BitVec.ofBool w ++
    tokenSlot toks 0 ++ tokenSlot toks 1 ++ tokenSlot toks 2 ++ tokenSlot toks 3

/-- The response of a capability command with OP `op` (R135, R136). -/
def capabilityResponse (op : BitVec 4) (names : OpenNames) (toks : List Token) (w : Bool) : Response :=
  mkResponse .ok op (capabilityData toks w) (render names toks w)

/-- CAPL: interpret the LTE/UTRAN byte (R135). -/
def execCapl (b : Byte) (s : State) : Result :=
  .next (complete (capabilityResponse 0x3 s.names (lteTokens b) (lteWarn b)) s)

/-- CAPG: interpret the GSM/CDMA byte (R136). -/
def execCapg (b : Byte) (s : State) : Result :=
  .next (complete (capabilityResponse 0x4 s.names (gsmTokens b) (gsmWarn b)) s)

end Sys2Proof.Machine
end

