-- ==== Sys2Proof/Machine/Decoder.lean ====
section
/-! DEFINITION. The PLMN decoder: DEC (R100 to R109). -/

namespace Sys2Proof.Machine

/-- The MCC of a record: symbols r1, r0, r3 with the fillers removed (R102, R103). -/
def decodeMcc (r : Record) : List Sym := removeFillers (selectMcc (recordSyms r))

/-- The MNC of a record: symbols r5, r4, r2 with the fillers removed (R102, R103). -/
def decodeMnc (r : Record) : List Sym := removeFillers (selectMnc (recordSyms r))

/-- DATA of DEC: the two codes in the layout of an ENC payload (R104). -/
def decodeData (r : Record) : BitVec 40 := packCodes (codeOfSyms (decodeMcc r)) (codeOfSyms (decodeMnc r))

/-- The response of DEC (R105). -/
def decResponse (r : Record) : Response := mkResponse .ok 0x2 (decodeData r) []

/-- DEC: decode the MCC and MNC of a record (R105). -/
def execDec (r : Record) (s : State) : Result := .next (complete (decResponse r) s)

end Sys2Proof.Machine
end

