-- ==== Sys2Proof/Machine/Encoder.lean ====
section
/-! DEFINITION. The PLMN encoder: ENC (R80 to R91). -/

namespace Sys2Proof.Machine

/-- The record of an MCC/MNC pair: normalise, concatenate, interleave, append the suffix (R81 to R84). -/
def encodeRecord (mcc mnc : Code) : Record :=
  packSyms (appendSuffix (interleave (concatenate (normalise mcc) (normalise mnc))))

/-- The response of ENC (R85). -/
def encResponse (mcc mnc : Code) : Response := mkResponse .ok 0x1 (encodeRecord mcc mnc) []

/-- ENC: encode an MCC/MNC pair (R85).  The check of R86 is on the request word and is done before a command is
decoded; apart from it the command is total (R87). -/
def execEnc (mcc mnc : Code) (s : State) : Result := .next (complete (encResponse mcc mnc) s)

end Sys2Proof.Machine
end

