-- ==== Sys2Proof/Machine/Dispatch.lean ====
section
/-! DEFINITION. The meaning of each command (R61). -/

namespace Sys2Proof.Machine

/-- One arm for each command of the opcode map (R61). -/
def exec (i : Instr) (s : State) : Host.Outcome State Fault Refusal :=
  match i with
  | .enc mcc mnc => Sys2Proof.Machine.execEnc mcc mnc s
  | .dec record => Sys2Proof.Machine.execDec record s
  | .capl b => Sys2Proof.Machine.execCapl b s
  | .capg b => Sys2Proof.Machine.execCapg b s

end Sys2Proof.Machine
end

