-- ==== Sys2Proof/Machine/Interact.lean ====
section
/-! DEFINITION. What the block does for each host interaction (R165). -/

namespace Sys2Proof.Machine

/-- An issued request word runs one command, or takes the ILLEGAL exception (R30, R151, R197). -/
def issueRequest (w : Request) (s : State) : Result :=
  match decode w with
  | .ok i => exec i s
  | .error _ => .next (raiseIllegal w s)

/-- One host interaction (R165). -/
def interact (e : HostEvent) (s : State) : Result :=
  match e with
  | .issue w => issueRequest w s
  | .read what => hostRead what s
  | .reset => .next (resetEvent s)

/-- The interaction that issues the request word a number gives, the bits above `nbits` zero. -/
def issueTableWord (nbits w : Nat) : HostEvent := .issue (BitVec.ofNat 48 (w % 2 ^ nbits))

end Sys2Proof.Machine
end

