-- ==== Sys2Proof/Machine/Step.lean ====
section
/-! DEFINITION. One step: the host's next interaction.  The block has no program counter and fetches nothing; which
command comes next is decided by the host alone (R21), so the interactions stand in State as the list `pending`. -/

namespace Sys2Proof.Machine

/-- One step takes the next host interaction off `pending` and does it.  With none left nothing happens: the block has
no halt state and only an interaction causes a step (R154, R199; notes/assumptions/4.md). -/
def step (s : State) : Host.Outcome State Fault Refusal :=
  match s.pending with
  | [] => .next s
  | e :: rest => interact e { s with pending := rest }

/-- The state with a request placed as the host's very next interaction (notes/assumptions/3.md). -/
def State.withFetchWord (s : State) (nbits w : Nat) : State :=
  { s with pending := issueTableWord nbits w :: s.pending }

/-- `n` steps, stopping at the first that does not answer a next state. -/
def run : Nat → State → Result
  | 0, s => .next s
  | n + 1, s =>
    match step s with
    | .next t => run n t
    | stopped => stopped

/-- A run of all the interactions in `pending` (R199). -/
def runPending (s : State) : Result := run s.pending.length s

end Sys2Proof.Machine
end

