-- ==== Sys2Proof/Machine/Chars.lean ====
section
/-! DEFINITION. Host software: characters and symbols (R166, R167), and the request words the host builds from strings
(R69, R70, R166, R173). -/

namespace Sys2Proof.Machine

/-- The symbol of a character; `none` when the host rejects it (R166). -/
def symOf (lc : Lowercase) (c : Byte) : Option Sym :=
  let n := c.toNat
  if 48 ≤ n ∧ n ≤ 57 then some (BitVec.ofNat 4 (n - 48))
  else if 65 ≤ n ∧ n ≤ 70 then some (BitVec.ofNat 4 (n - 55))
  else if 97 ≤ n ∧ n ≤ 102 ∧ lc = .fold then some (BitVec.ofNat 4 (n - 87))
  else none

/-- The character of a symbol, '0'..'9' or 'A'..'F' (R167). -/
def charOf (x : Sym) : Byte := if x.toNat ≤ 9 then BitVec.ofNat 8 (x.toNat + 48) else BitVec.ofNat 8 (x.toNat + 55)

/-- Symbols as characters (R167). -/
def symsText (l : List Sym) : Text := l.map charOf

/-- A record as its 10 characters r0..r9 (R167). -/
def recordText (r : Record) : Text := symsText (recordSyms r).toList

/-- A decoded code as its first LEN output slots (R167). -/
def codeText (c : Code) : Text := symsText (presentSyms c)

/-- A natural number in decimal without leading zeros (R169, R174). -/
def decimal (n : Nat) : Text := (Nat.toDigits 10 n).map chr

/-- The symbol of slot `i` of a code built from the string `x`: the slots that `x` does not reach are not present, and
hold 0xF (R69). -/
def slotOf (lc : Lowercase) (x : Text) (i : Nat) : Option Sym :=
  match x[i]? with
  | some c => symOf lc c
  | none => some filler

/-- A code built from a string of any length: its first three characters are converted, those beyond are neither
converted nor checked, and the length saturates at 15 (R69). -/
def codeOfText (lc : Lowercase) (x : Text) : Option Code :=
  match slotOf lc x 0, slotOf lc x 1, slotOf lc x 2 with
  | some a, some b, some c => some ⟨a, b, c, BitVec.ofNat 4 (min x.length 15)⟩
  | _, _, _ => none

/-- The ENC request of an MCC string and an MNC string (R69), or `none` when a character is rejected (R166). -/
def encRequest (lc : Lowercase) (mcc mnc : Text) : Option Request :=
  match codeOfText lc mcc, codeOfText lc mnc with
  | some a, some b => some (encode (.enc a b))
  | _, _ => none

/-- The record whose ten symbols are a list's, a missing one 0. -/
def recordOfSyms (l : List Sym) : Record := packSyms (Vector.ofFn fun i : Fin 10 => l.getD i.val 0)

/-- All characters of a text converted, or `none` when one is rejected (R166). -/
def symsOfText (lc : Lowercase) (t : Text) : Option (List Sym) := t.mapM (symOf lc)

/-- A standalone decode of a string: its first six characters, with N(6)..N(9) zero; a string of fewer than six
characters is rejected (R166). -/
def standaloneDecode (lc : Lowercase) (t : Text) : Option Request :=
  if t.length < 6 then none
  else (symsOfText lc (t.take 6)).map fun l => encode (.dec (recordOfSyms l))

/-- The record of exactly ten characters, all of them converted (R70, R166, R173).  R70 says that `DECREC` needs the full
10 characters and not what it does with more; here a longer string is rejected (DESIGN CHOICE,
notes/assumptions/19.md).  A table chunk always has 10. -/
def recordOfText (lc : Lowercase) (t : Text) : Option Record :=
  if t.length = 10 then (symsOfText lc t).map recordOfSyms else none

/-- The three commands that decode one whole record: DEC with the record, CAPL with byte 3 and CAPG with byte 4
(R70, R173). -/
def decrecCommands (r : Record) : List Instr := [.dec r, .capl (recordByte r 3), .capg (recordByte r 4)]

/-- The expansion of `DECREC`: its three request words (R70). -/
def decrecRequests (r : Record) : List Request := (decrecCommands r).map encode

end Sys2Proof.Machine
end

