-- ==== Sys2Proof/Machine/Assembler.lean ====
section
/-! DEFINITION. The assembly language of the request words: parsing, assembling and disassembling (R68 to R71). -/

namespace Sys2Proof.Machine

/-- One line of assembly (R68, R70). -/
inductive AsmLine where
  /-- `ENC "<mcc>", "<mnc>"` -/
  | enc (mcc mnc : Text)
  /-- `DEC "<record>"` -/
  | decText (record : Text)
  /-- `DEC 0x<h9..h0>` -/
  | decHex (record : Record)
  /-- `CAPL 0x<hh>` -/
  | capl (b : Byte)
  /-- `CAPG 0x<hh>` -/
  | capg (b : Byte)
  /-- `DECREC "<record>"` -/
  | decrec (record : Text)
  /-- `.req 0x<12 hex digits>` -/
  | raw (w : Request)
  deriving DecidableEq, Repr

/-- The request words of a line, or `none` when a character of a string is rejected (R68, R69, R70, R166). -/
def assemble (lc : Lowercase) : AsmLine → Option (List Request)
  | .enc mcc mnc => (encRequest lc mcc mnc).map fun w => [w]
  | .decText t => (standaloneDecode lc t).map fun w => [w]
  | .decHex r => some [encode (.dec r)]
  | .capl b => some [encode (.capl b)]
  | .capg b => some [encode (.capg b)]
  | .decrec t => (recordOfText lc t).map decrecRequests
  | .raw w => some [w]

/-- The hexadecimal digits of the low `4 n` bits of a number, the most significant first, in uppercase (R167). -/
def hexDigits : Nat → Nat → Text
  | 0, _ => []
  | n + 1, v => hexDigits n (v / 16) ++ [charOf (BitVec.ofNat 4 v)]

/-- A `0x` literal of `n` digits (R68). -/
def hexLiteral (n v : Nat) : Text := txt "0x" ++ hexDigits n v

/-- A text in double quotes (R68). -/
def quoted (t : Text) : Text := txt "\"" ++ t ++ txt "\""

/-- Disassembly: how a request word prints (R71). -/
def disassemble (w : Request) : Text :=
  match decode w with
  | .ok (.enc mcc mnc) => txt "ENC " ++ quoted (codeText mcc) ++ txt ", " ++ quoted (codeText mnc)
  | .ok (.dec r) => txt "DEC " ++ hexLiteral 10 r.toNat
  | .ok (.capl b) => txt "CAPL " ++ hexLiteral 2 b.toNat
  | .ok (.capg b) => txt "CAPG " ++ hexLiteral 2 b.toNat
  | .error _ => txt ".req " ++ hexLiteral 12 w.toNat

/-- A blank of the assembly language: a space or a tab (DESIGN CHOICE, notes/assumptions/11.md). -/
def isBlank (c : Byte) : Bool := c = chr ' ' || c = chr '\t'

/-- A text without its leading and trailing blanks. -/
def trim (t : Text) : Text := (t.dropWhile isBlank).reverse.dropWhile isBlank |>.reverse

/-- A line without its comment; `;` starts one (R68), unless it stands inside double quotes (DESIGN CHOICE,
notes/assumptions/11.md). -/
def stripComment : Bool → Text → Text
  | _, [] => []
  | inside, c :: rest =>
    if c = chr '"' then c :: stripComment (!inside) rest
    else if c = chr ';' && !inside then []
    else c :: stripComment inside rest

/-- The text between the double quotes of a quoted string. -/
def unquote (t : Text) : Option Text :=
  match t with
  | q :: rest =>
    let body := rest.dropLast
    if q = chr '"' && rest.getLast? == some (chr '"') && !body.contains (chr '"') then some body else none
  | [] => none

/-- The number of a `0x` literal of exactly `n` digits, of either case (R68). -/
def unhex (n : Nat) (t : Text) : Option Nat :=
  if t.take 2 = txt "0x" ∧ t.length = n + 2 then
    (symsOfText .fold (t.drop 2)).map fun l => l.foldl (fun acc x => 16 * acc + x.toNat) 0
  else none

/-- The two quoted operands of ENC, with a comma between them. -/
def unquotePair (t : Text) : Option (Text × Text) :=
  match t with
  | q :: rest =>
    let first := rest.takeWhile (fun c => c ≠ chr '"')
    let after := trim (rest.drop (first.length + 1))
    if q = chr '"' && after.head? == some (chr ',') then (unquote (trim after.tail)).map fun second => (first, second)
    else none
  | [] => none

/-- The line of a mnemonic and its operand text (R68, R70). -/
def parseOperands (mnemonic operands : Text) : Option AsmLine :=
  if mnemonic = txt "ENC" then (unquotePair operands).map fun p => .enc p.1 p.2
  else if mnemonic = txt "DEC" then
    match unquote operands with
    | some t => some (.decText t)
    | none => (unhex 10 operands).map fun v => .decHex (BitVec.ofNat 40 v)
  else if mnemonic = txt "CAPL" then (unhex 2 operands).map fun v => .capl (BitVec.ofNat 8 v)
  else if mnemonic = txt "CAPG" then (unhex 2 operands).map fun v => .capg (BitVec.ofNat 8 v)
  else if mnemonic = txt "DECREC" then (unquote operands).map .decrec
  else if mnemonic = txt ".req" then (unhex 12 operands).map fun v => .raw (BitVec.ofNat 48 v)
  else none

/-- One line of text: `some []` when only a comment or nothing stands on it, `none` when it is no line of the language
(R68). -/
def parseLine (line : Text) : Option (List AsmLine) :=
  let t := trim (stripComment false line)
  if t = [] then some []
  else
    let mnemonic := t.takeWhile (fun c => !isBlank c)
    (parseOperands mnemonic (trim (t.drop mnemonic.length))).map fun l => [l]

/-- The request words of one line of text. -/
def assembleText (lc : Lowercase) (line : Text) : Option (List Request) :=
  (parseLine line).bind fun ls => (ls.mapM (assemble lc)).map List.flatten

/-- The request words of a program, one request a line (R68).  When a line is rejected or is no line of the language the
whole program has no request word, its good lines included: R68 does not say what such a program yields
(DESIGN CHOICE, notes/assumptions/23.md). -/
def assembleProgram (lc : Lowercase) (lines : List Text) : Option (List Request) :=
  (lines.mapM (assembleText lc)).map List.flatten

end Sys2Proof.Machine
end

