-- ==== Sys2Proof/Machine/HostContract.lean ====
section
/-! DEFINITION. The host contract: the command line, the table splitter, the AT line, the report, and the host's errors
(R165 to R180).  The host software is not part of the block; it reaches it only by the interactions of R165. -/

namespace Sys2Proof.Machine

/-- The host's error classes (R178). -/
inductive HostError where
  /-- E_PAIRING: an odd number of positional arguments. -/
  | pairing
  /-- E_MISSING_VALUE: a table flag with no value. -/
  | missingValue
  /-- E_UNKNOWN_FLAG: an unknown flag. -/
  | unknownFlag
  /-- E_MALFORMED: a table payload whose length is not a positive multiple of 10. -/
  | malformed
  deriving DecidableEq, Repr

/-- A check of the host that fails: one of its errors, or an input whose characters it rejects (R166, R178). -/
inductive Failure where
  | error (e : HostError)
  /-- A rejected character: a host refusal, not one of the source's errors (R166). -/
  | rejected
  deriving DecidableEq, Repr

/-- The line end (R175; the AT line's is decision D20). -/
def lf : Text := [BitVec.ofNat 8 10]

/-- The payload of a table string: what stands after its last comma, or all of it when there is none (R171). -/
def tablePayload (raw : Text) : Text := (raw.reverse.takeWhile (fun c => c ≠ chr ',')).reverse

/-- The length check: a positive multiple of 10 (R172). -/
def payloadLengthOk (p : Text) : Bool := decide (0 < p.length ∧ p.length % 10 = 0)

/-- The consecutive 10-character chunks of a payload, in input order (R173). -/
def chunks (p : Text) : List Text := (List.range (p.length / 10)).map fun j => (p.drop (10 * j)).take 10

/-- The records of a table string, or the check that fails (R171, R172, R173, R166).  The characters of a payload are
converted only when its length is right, since R173 cuts a payload of length 10J into chunks and converts those
(DEDUCED, notes/assumptions/22.md). -/
def tableRecords (lc : Lowercase) (raw : Text) : Except Failure (List Record) :=
  let p := tablePayload raw
  if payloadLengthOk p then
    match (chunks p).mapM (recordOfText lc) with
    | some rs => .ok rs
    | none => .error .rejected
  else .error (.error .malformed)

/-- A token of the command line that is a table flag (R176). -/
def isTableFlag (a : Text) : Bool := a = txt "-p" || a = txt "--plmn"

/-- A token of the command line that is a help flag (R177). -/
def isHelpFlag (a : Text) : Bool := a = txt "-h" || a = txt "--help"

/-- A token that starts with '-' (R176, R177). -/
def startsDash (a : Text) : Bool := a.head? == some (chr '-')

/-- What the command line holds: its positional arguments, its table values, whether help is asked for, and the checks
of R176 and R177 that fail, each in argument order. -/
structure CommandLine where
  positional : List Text
  tables : List Text
  help : Bool
  failures : List Failure
  deriving DecidableEq, Repr

/-- Reading the command line (R168, R176, R177).  A token in the place of a table value is that value and is read as
nothing else, so `-p -h` is a missing value (DEDUCED from the rows of spec/95_test_vectors.md section 2.6,
notes/assumptions/7.md). -/
def scanArgs : List Text → CommandLine
  | [] => ⟨[], [], false, []⟩
  | [a] =>
    if isTableFlag a then ⟨[], [], false, [.error .missingValue]⟩
    else if isHelpFlag a then ⟨[], [], true, []⟩
    else if startsDash a then ⟨[], [], false, [.error .unknownFlag]⟩
    else ⟨[a], [], false, []⟩
  | a :: v :: rest =>
    if isTableFlag a then
      let c := scanArgs rest
      if startsDash v then { c with failures := .error .missingValue :: c.failures }
      else { c with tables := v :: c.tables }
    else
      let c := scanArgs (v :: rest)
      if isHelpFlag a then { c with help := true }
      else if startsDash a then { c with failures := .error .unknownFlag :: c.failures }
      else { c with positional := a :: c.positional }

/-- The pairs `<MCC> <MNC>` of the positional arguments, or `none` for an odd count (R168). -/
def pairUp : List Text → Option (List (Text × Text))
  | [] => some []
  | [_] => none
  | a :: b :: rest => (pairUp rest).map fun ps => (a, b) :: ps

/-- The failing check of a result, if it is one. -/
def failureOf {α : Type} : Except Failure α → List Failure
  | .ok _ => []
  | .error f => [f]

/-- The ENC requests of the positional arguments, or the check that fails (R168, R69, R166).  With an odd count the
characters are not looked at, so E_PAIRING is then the one failing check of the positional arguments, even when some
character would be rejected; no rule orders the two checks (DESIGN CHOICE, notes/assumptions/22.md). -/
def pairRequests (lc : Lowercase) (positional : List Text) : Except Failure (List Request) :=
  match pairUp positional with
  | none => .error (.error .pairing)
  | some ps =>
    match ps.mapM (fun p => encRequest lc p.1 p.2) with
    | some ws => .ok ws
    | none => .error .rejected

/-- The work of a command line whose checks all pass: one ENC request for each pair, and the records of each table. -/
structure Plan where
  encodes : List Request
  tables : List (List Record)
  deriving DecidableEq, Repr

/-- Every check of the command line that fails (R179), at most one for the positional arguments and one for each table
value (notes/assumptions/22.md). -/
def checkFailures (lc : Lowercase) (c : CommandLine) : List Failure :=
  c.failures ++ failureOf (pairRequests lc c.positional) ++ c.tables.flatMap (fun t => failureOf (tableRecords lc t))

/-- The work of a command line, or the checks that fail: every argument and every payload is checked before any request
is issued (R179). -/
def planOf (lc : Lowercase) (c : CommandLine) : Except (List Failure) Plan :=
  match c.failures, pairRequests lc c.positional, c.tables.mapM (tableRecords lc) with
  | [], .ok ws, .ok rs => .ok ⟨ws, rs⟩
  | _, _, _ => .error (checkFailures lc c)

/-- The request words of a plan, in the order the host issues them: the ENC requests of the pairs (R169), then the
requests of each table's records (R173).  R179 fixes the order of what is printed and not the order of issue between
pairs and tables; the model issues in the order of printing (DESIGN CHOICE, notes/assumptions/20.md). -/
def planRequests (p : Plan) : List Request := p.encodes ++ p.tables.flatten.flatMap decrecRequests

/-- The interactions that issue requests, each followed by a read of its response, because the next command replaces it
(R165, R194). -/
def askScript (ws : List Request) : List HostEvent := ws.flatMap fun w => [.issue w, .read .response]

/-- The responses among the observations of a run (R199). -/
def observedResponses (os : List Observation) : List Response :=
  os.filterMap fun o =>
    match o with
    | .response r => some r
    | _ => none

/-- The AT line of the records of at least one pair, in pair order, or nothing when there is no pair (R169). -/
def atLine (records : List Record) : Text :=
  if records = [] then []
  else
    let payload := records.flatMap recordText
    txt "AT+CRSM=214,28512,0,0," ++ decimal (payload.length / 2) ++ txt "," ++ payload ++ lf

/-- The MCC and MNC a DEC response holds, as texts (R104, R167). -/
def decodedTexts (r : Response) : Text × Text :=
  (codeText (payloadMcc (rspData r.word)), codeText (payloadMnc (rspData r.word)))

/-- Report line `j` of the DEC, CAPL and CAPG responses of one record (R174, R175). -/
def reportLine (j : Nat) (dec lte gsm : Response) : Text :=
  decimal j ++ txt ". MCC: " ++ (decodedTexts dec).1 ++ txt " MNC: " ++ (decodedTexts dec).2 ++
    txt " RAT(s): " ++ responseText lte ++ txt ", " ++ responseText gsm ++ lf

/-- The report lines of the responses of consecutive records, numbered from `j` (R175). -/
def reportLines : Nat → List Response → Text
  | j, dec :: lte :: gsm :: rest => reportLine j dec lte gsm ++ reportLines (j + 1) rest
  | _, _ => []

/-- One report for each table, in argument order, each numbered from 1 (R175, R179). -/
def reports : List (List Record) → List Response → Text
  | [], _ => []
  | rs :: more, answers => reportLines 1 (answers.take (3 * rs.length)) ++ reports more (answers.drop (3 * rs.length))

/-- What a plan prints, given the responses of its requests in order: the AT line, then the reports (R179). -/
def planOutput (p : Plan) (answers : List Response) : Text :=
  atLine ((answers.take p.encodes.length).map fun r => rspData r.word) ++
    reports p.tables (answers.drop p.encodes.length)

/-- How one invocation of the host ends. -/
inductive HostResult where
  /-- Every check passed: the AT line and the reports (R179). -/
  | printed (out : Text)
  /-- `-h` or `--help`: the usage text (R177). -/
  | usage (out : Text)
  /-- No arguments: the name and version text (R177). -/
  | version (out : Text)
  /-- A host error: its one message (R178). -/
  | failed (e : HostError) (message : Text)
  /-- An input the host rejects; the spec gives it no message and no exit code (R166). -/
  | refused
  /-- The block stopped; it does so for no request the host issues. -/
  | blockStopped
  deriving DecidableEq, Repr

/-- The text of an error class (R178). -/
def errorText (t : ErrorTexts) : HostError → Text
  | .pairing => t.pairing
  | .missingValue => t.missingValue
  | .unknownFlag => t.unknownFlag
  | .malformed => t.malformed

/-- The error message: the `[ERROR]` tag and the class's text (R178). -/
def errorMessage (hc : HostConfig) (e : HostError) : Text := txt "[ERROR]" ++ errorText hc.errorText e

/-- The one failing check the host reports: when several fail the spec does not say which, so a parameter picks one
(R178, R179; DESIGN CHOICE, notes/assumptions/8.md).  A rejected character (R166) is one of them, so it may win over a
host error, and the invocation then ends as a refusal, with no message and no exit code; no rule says which of the two
wins (DESIGN CHOICE, notes/assumptions/24.md). -/
def reported (hc : HostConfig) (fs : List Failure) : Failure := fs.getD (hc.failurePick % fs.length) .rejected

/-- How the host ends when a check fails: one message, no request and no other output (R179, R180). -/
def endFailed (hc : HostConfig) (fs : List Failure) : HostResult :=
  match reported hc fs with
  | .error e => .failed e (errorMessage hc e)
  | .rejected => .refused

/-- Issuing requests and reading each response: the responses in order and the block after them, or `none` when the
block stops.  The interactions stand before any others that are pending (R165, R194, R199). -/
def askBlock (ws : List Request) (s : State) : Option (List Response × State) :=
  match run (askScript ws).length { s with pending := askScript ws ++ s.pending } with
  | .next t => some (observedResponses (t.observed.drop s.observed.length), t)
  | _ => none

/-- The run of a plan on a block: the result and the block's state after it (R179). -/
def runPlan (p : Plan) (s : State) : HostResult × State :=
  match askBlock (planRequests p) s with
  | some (answers, t) => (.printed (planOutput p answers), t)
  | none => (.blockStopped, s)

/-- One invocation of the host software with its arguments, on a block (R168, R176 to R180). -/
def hostMain (hc : HostConfig) (args : List Text) (s : State) : HostResult × State :=
  if args = [] then (.version hc.versionText, s)
  else
    let c := scanArgs args
    if c.help then (.usage hc.usageText, s)
    else
      match planOf hc.lowercase c with
      | .ok p => runPlan p s
      | .error fs => (endFailed hc fs, s)

/-- The exit code (R178); `none` where the spec gives none. -/
def exitCode : HostResult → Option Nat
  | .printed _ => some 0
  | .usage _ => some 0
  | .version _ => some 0
  | .failed _ _ => some 1
  | .refused => none
  | .blockStopped => none

/-- What is printed on a stream; an error message goes where ERROR_STREAM says (R178). -/
def printedOn (hc : HostConfig) (stream : Stream) : HostResult → Text
  | .printed out => if stream = .stdout then out else []
  | .usage out => if stream = .stdout then out else []
  | .version out => if stream = .stdout then out else []
  | .failed _ message => if stream = hc.errorStream then message else []
  | .refused => []
  | .blockStopped => []

/-- A standalone decode of a string: its MCC and MNC and the block after it, or `none` when the input is rejected and no
request is issued (R166, R167). -/
def hostDecode (lc : Lowercase) (t : Text) (s : State) : Option (Text × Text) × State :=
  match standaloneDecode lc t with
  | none => (none, s)
  | some w =>
    match askBlock [w] s with
    | some (answers, u) => (answers.head?.map decodedTexts, u)
    | none => (none, s)

end Sys2Proof.Machine
end

