-- ==== Sys2Proof/Machine/Platform.lean ====
section
/-! DEFINITION. A platform: any number of block instances, which share no state and send no messages to one another
(R35, R50, R160). -/

namespace Sys2Proof.Machine

/-- The instances of a platform.  An instance has no identifier the block knows (R160); the index is the host's. -/
abbrev Platform := List State

/-- The instances start together at reset, each with its own NAME configuration (R160). -/
def platformReset (configs : List OpenNames) : Platform := configs.map State.resetWith

/-- One interaction of the host with instance `k`.  A host that names an instance the platform does not have does
nothing (DESIGN CHOICE, notes/assumptions/14.md).  A reset event reaches instance `k` alone: the spec says that the
instances start together at reset (R160) and not whether a later reset reaches them all (DESIGN CHOICE,
notes/assumptions/21.md). -/
def platformInteract (k : Nat) (e : HostEvent) (p : Platform) : Host.Outcome Platform Fault Refusal :=
  match p[k]? with
  | none => .next p
  | some s =>
    match interact e s with
    | .next t => .next (p.set k t)
    | .fault f => .fault f
    | .refused r => .refused r

end Sys2Proof.Machine
end

