-- ==== Sys2Proof/Safety.lean ====
section
/-! DEFINITION. What counts as a safe run, and the invariant of the machine. -/

namespace Sys2Proof.Machine

/-- A request word that R67 calls illegal, in the words of its four cases. -/
def IllegalWord (w : Request) : Prop :=
  (w.extractLsb 47 44 = 0x0#4 ∨ 0x5#4 ≤ w.extractLsb 47 44) ∨
  w.extractLsb 43 40 ≠ 0x0#4 ∨
  (w.extractLsb 47 44 = 0x1#4 ∧ w.extractLsb 7 0 ≠ 0x00#8) ∨
  ((w.extractLsb 47 44 = 0x3#4 ∨ w.extractLsb 47 44 = 0x4#4) ∧ w.extractLsb 39 8 ≠ 0x0#32)

/-- The state after the request at the head of `pending` has completed with RSP_WORD `word` and text `t`: the four
response registers are written (R30), the request is off the list, and nothing else is changed. -/
def afterRequest (s : State) (rest : List HostEvent) (word : RspWord) (t : Text) : State :=
  { s with
    pending := rest, rspWord := word, text := textBuffer t, textLen := BitVec.ofNat 8 t.length, rspValid := true }

/-- The RSP_WORD of an ILLEGAL response (R152). -/
def illegalRspWord (w : Request) : RspWord := 0b01#2 ++ 0b00#2 ++ w.extractLsb 47 44 ++ 0x0000#16 ++ 0#40

/-- The RSP_WORD of an OK response (R25). -/
def okRspWord (op : BitVec 4) (data : BitVec 40) : RspWord := 0b00#2 ++ 0b00#2 ++ op ++ 0x0000#16 ++ data

/-- What a command leaves unchanged: NAME and the model's interface to the host.  All other fields of State are the
response registers. -/
def SameInterface (s t : State) : Prop := t.names = s.names ∧ t.pending = s.pending ∧ t.observed = s.observed

/-- The response registers hold the empty text: TEXT_LEN is 0 and every TEXT byte is 0x00 (R28). -/
def EmptyText (t : State) : Prop := t.textLen = 0 ∧ ∀ i : Fin textMax, t.text[i.val] = 0

/-- RSP_WORD says OK with the echo `op`, and its reserved fields are 0 (R25, R26). -/
def OkEcho (op : BitVec 4) (t : State) : Prop :=
  rspStatus t.rspWord = 0b00#2 ∧ rspRsvd0 t.rspWord = 0b00#2 ∧ rspOp t.rspWord = op ∧ rspRsvd1 t.rspWord = 0x0000#16

/-- NAME by the number of the token, the rows of the table of R131; a number that is no token has no entry. -/
def nameByNumber (names : OpenNames) (k : BitVec 4) : Text :=
  if k = 1 then txt "UTRAN"
  else if k = 2 then txt "E-UTRAN in WB-S1, NB-S1 modes"
  else if k = 3 then names.eutranNb
  else if k = 4 then names.eutranWb
  else if k = 5 then txt "NG-RAN"
  else if k = 6 then txt "GSM + EC-GSM-IoT"
  else if k = 7 then names.gsmOnly
  else if k = 8 then names.ecGsmOnly
  else if k = 9 then txt "GSM COMPACT"
  else if k = 10 then txt "CDMA2000 HRPD"
  else if k = 11 then txt "CDMA2000 1xRTT"
  else []

/-- The token numbers of the LTE/UTRAN byte, by the masks of R121 and the table of R122, in the order of R128. -/
def lteNumbers (b : Byte) : List (BitVec 4) :=
  (if b &&& 0x80 ≠ 0 then [1] else []) ++
  (if b &&& 0x40 ≠ 0 then [if (b &&& 0x30) >>> 4 = 1 then 3 else if (b &&& 0x30) >>> 4 = 2 then 4 else 2] else []) ++
  (if b &&& 0x08 ≠ 0 then [5] else [])

/-- The token numbers of the GSM/CDMA byte, by the masks of R124 and the table of R125, in the order of R128. -/
def gsmNumbers (b : Byte) : List (BitVec 4) :=
  (if b &&& 0x80 ≠ 0 then [if (b &&& 0x0C) >>> 2 = 1 then 7 else if (b &&& 0x0C) >>> 2 = 2 then 8 else 6] else []) ++
  (if b &&& 0x40 ≠ 0 then [9] else []) ++ (if b &&& 0x20 ≠ 0 then [10] else []) ++
  (if b &&& 0x10 ≠ 0 then [11] else [])

/-- The text of token numbers and a warning bit (R129, R132, R133). -/
def numbersText (names : OpenNames) (ks : List (BitVec 4)) (w : Bool) : Text :=
  (txt ", ").intercalate (ks.map (nameByNumber names)) ++ (if w then txt " -- WARNING: Reserved bits set" else [])

/-- DATA of a capability response holds the token numbers `ks` and the warning bit `w`, laid out as R134 says. -/
def HoldsTokens (d : BitVec 40) (ks : List (BitVec 4)) (w : Bool) : Prop :=
  d.extractLsb 39 20 = 0#20 ∧ (d.extractLsb 19 17).toNat = ks.length ∧ d.extractLsb 16 16 = BitVec.ofBool w ∧
  d.extractLsb 15 12 = ks.getD 0 0 ∧ d.extractLsb 11 8 = ks.getD 1 0 ∧ d.extractLsb 7 4 = ks.getD 2 0 ∧
  d.extractLsb 3 0 = ks.getD 3 0

/-- The response a word gets when it is the first request after reset (R192). -/
def RespondsAlone (names : OpenNames) (w : Request) (r : Response) : Prop :=
  ∃ u, step { State.resetWith names with pending := [.issue w] } = .next u ∧ response u = r

/-- The symbols of a code as the padded slots m0, m1, m2 of R81. -/
def paddedSyms (c : Code) : List Sym :=
  [if 0 < c.len.toNat then c.sym0 else 0xF, if 1 < c.len.toNat then c.sym1 else 0xF,
   if 2 < c.len.toNat then c.sym2 else 0xF]

/-- Two codes that agree on their length and on every slot that is present (R65, R88). -/
def AgreeOnPresent (c d : Code) : Prop :=
  c.len = d.len ∧ (0 < c.len.toNat → c.sym0 = d.sym0) ∧ (1 < c.len.toNat → c.sym1 = d.sym1) ∧
  (2 < c.len.toNat → c.sym2 = d.sym2)

/-- A code of at most 3 symbols, each present one a digit (R90). -/
def DigitCode (c : Code) : Prop := c.len.toNat ≤ 3 ∧ ∀ x ∈ presentSyms c, isDigit x = true

/-- No filler of the code `[a, b, c]` stands before another symbol (R109). -/
def NoInternalFiller (a b c : Sym) : Prop := (a = 0xF → b = 0xF) ∧ (b = 0xF → c = 0xF)

/-- A text of decimal digit characters (R80). -/
def DigitText (t : Text) : Prop := ∀ c ∈ t, 48 ≤ c.toNat ∧ c.toNat ≤ 57

/-- What one read of the registers of `t` returns (R31, R165). -/
def readOf (t : State) : ReadTarget → Observation
  | .response => .response ⟨t.rspWord, t.text, t.textLen⟩
  | .rspWord => .rspWord t.rspWord
  | .text => .text t.text
  | .textLen => .textLen t.textLen
  | .rspValid => .rspValid t.rspValid

/-- The response of a command, a function of the command and the NAME configuration alone (R14, R30). -/
def commandResponse (names : OpenNames) : Instr → Response
  | .enc mcc mnc => encResponse mcc mnc
  | .dec r => decResponse r
  | .capl b => capabilityResponse 0x3 names (lteTokens b) (lteWarn b)
  | .capg b => capabilityResponse 0x4 names (gsmTokens b) (gsmWarn b)

/-- The response to a request word, a function of the word and the NAME configuration alone (R14, R30). -/
def wordResponse (names : OpenNames) (w : Request) : Response :=
  match decode w with
  | .ok i => commandResponse names i
  | .error _ => illegalResponse w

/-- A step is safe when it answers a next state. -/
def StepsOn (s : State) : Prop := ∃ t, step s = .next t

/-- A run is safe for `n` steps when none of them stops (R199: a run with a forbidden read has faulted). -/
def RunsOn (n : Nat) (s : State) : Prop := ∃ t, run n s = .next t

/-- Whether a read is allowed when RSP_VALID is `valid`: RSP_VALID may be read at any time, the other registers only
when it is 1 (R32, R165; DEDUCED, notes/assumptions/6.md). -/
def readAllowed (valid : Bool) : ReadTarget → Bool
  | .rspValid => true
  | .response => valid
  | .rspWord => valid
  | .text => valid
  | .textLen => valid

/-- The host's one obligation (R165, R192): it does not read RSP_WORD, TEXT or TEXT_LEN before some command has
completed since reset.  `valid` is RSP_VALID when the interactions begin. -/
def hostObeys : Bool → List HostEvent → Bool
  | _, [] => true
  | _, .issue _ :: rest => hostObeys true rest
  | _, .reset :: rest => hostObeys false rest
  | valid, .read what :: rest => readAllowed valid what && hostObeys valid rest

/-- What every response a command writes satisfies: STATUS is OK or ILLEGAL (R26), the reserved fields are 0 (R25), an
OK response echoes one of the four OPs (R61), an ILLEGAL one holds no result (R152), TEXT_LEN is at most TEXT_MAX, and
the bytes of TEXT at and above TEXT_LEN are 0x00 (R28, R139). -/
def ResponseWf (r : Response) : Prop :=
  (rspStatus r.word = statusBits .ok ∨ rspStatus r.word = statusBits .illegal) ∧
  rspRsvd0 r.word = 0 ∧ rspRsvd1 r.word = 0 ∧
  (rspStatus r.word = statusBits .ok → rspOp r.word = 0x1 ∨ rspOp r.word = 0x2 ∨ rspOp r.word = 0x3 ∨ rspOp r.word = 0x4) ∧
  (rspStatus r.word = statusBits .illegal → rspData r.word = 0 ∧ r.textLen = 0) ∧
  r.textLen.toNat ≤ textMax ∧
  ∀ i : Fin textMax, r.textLen.toNat ≤ i.val → r.text[i.val] = 0

/-- The machine's invariant: NAME is as R131 says; while RSP_VALID is 1 the response registers hold a response that a
command writes; and every response a host read has returned is one too. -/
def Inv (s : State) : Prop :=
  s.names.wellFormed = true ∧ (s.rspValid = true → ResponseWf (response s)) ∧
  ∀ r, Observation.response r ∈ s.observed → ResponseWf r

end Sys2Proof.Machine
end

