-- ==== Sys2Proof/Certificates/Slice0/Obligations.lean ====
section
/-! DEFINITION. The statements about the machine, for the provers. -/

open Sys2Proof Sys2Proof.Machine

/-! ### Encoding -/

/-- Decoding the request word of any well-formed command gives the command back, every operand at every value. -/
def Obligations.DecodeOfEncodeIsTheCommand : Prop :=
  ∀ i : Instr, i.wellFormed = true → decode (encode i) = .ok i

/-- Each legal word has one meaning: the word of the command it decodes to is the word. -/
def Obligations.EncodeOfDecodeIsTheWord : Prop :=
  ∀ (w : Request) (i : Instr), decode w = .ok i → encode i = w

/-- R67: the illegal words are exactly those of its four cases; an illegal one completes with the ILLEGAL status, and
every other word is a request of exactly one command. -/
def Obligations.IllegalWordsAreThoseOfR67 : Prop :=
  ∀ w : Request,
    (IllegalWord w → (∃ e, decode w = .error e) ∧
      ∀ s : State, ∃ t, issueRequest w s = .next t ∧ rspStatus t.rspWord = 0b01#2) ∧
    (¬ IllegalWord w → (∃! i, decode w = .ok i) ∧ ∀ e, decode w ≠ .error e)

/-- The four rows of the opcode table: a word decodes to a command exactly when it matches the row's value under the
row's mask. -/
def Obligations.TableRowsSelectTheirCommands : Prop :=
  ∀ w : Request,
    ((∃ mcc mnc, decode w = .ok (.enc mcc mnc)) ↔ w &&& 0xFF00000000FF#48 = 0x100000000000#48) ∧
    ((∃ r, decode w = .ok (.dec r)) ↔ w &&& 0xFF0000000000#48 = 0x200000000000#48) ∧
    ((∃ b, decode w = .ok (.capl b)) ↔ w &&& 0xFFFFFFFFFF00#48 = 0x300000000000#48) ∧
    ((∃ b, decode w = .ok (.capg b)) ↔ w &&& 0xFFFFFFFFFF00#48 = 0x400000000000#48)

/-- Words of spec/95_test_vectors.md decode to the commands they stand for. -/
def Obligations.SampleWordsDecode : Prop :=
  decodeTableWord 48 0x103104103300 = some (.enc ⟨3, 1, 0, 3⟩ ⟨4, 1, 0, 3⟩) ∧
  decodeTableWord 48 0x1028988F3200 = some (.enc ⟨2, 8, 9, 3⟩ ⟨8, 8, 0xF, 2⟩) ∧
  decodeTableWord 48 0x201300624080 = some (.dec 0x1300624080) ∧
  decodeTableWord 48 0x3000000000FF = some (.capl 0xFF) ∧
  decodeTableWord 48 0x400000000080 = some (.capg 0x80) ∧
  decodeTableWord 48 0x000000000000 = none ∧ decodeTableWord 48 0x103104103301 = none

/-- Each operand is read from the bits that R62, R63 and R64 give it. -/
def Obligations.OperandsAreTheFieldsOfTheWord : Prop :=
  ∀ w : Request,
    (∀ mcc mnc, decode w = .ok (.enc mcc mnc) →
      mcc = ⟨w.extractLsb 39 36, w.extractLsb 35 32, w.extractLsb 31 28, w.extractLsb 15 12⟩ ∧
      mnc = ⟨w.extractLsb 27 24, w.extractLsb 23 20, w.extractLsb 19 16, w.extractLsb 11 8⟩) ∧
    (∀ r, decode w = .ok (.dec r) → r = w.extractLsb 39 0) ∧
    (∀ b, decode w = .ok (.capl b) → b = w.extractLsb 7 0) ∧
    (∀ b, decode w = .ok (.capg b) → b = w.extractLsb 7 0)

/-! ### ENC -/

/-- ENC always completes: its record is `m1 m0 n2 m2 n1 n0 4 0 8 0` of the padded codes (R81 to R84), with STATUS OK, the
echo 0x1 and the empty text; nothing but the response registers changes. -/
def Obligations.EncWritesTheInterleavedRecord : Prop :=
  ∀ (mcc mnc : Code) (s : State),
    let m0 := if 0 < mcc.len.toNat then mcc.sym0 else 0xF
    let m1 := if 1 < mcc.len.toNat then mcc.sym1 else 0xF
    let m2 := if 2 < mcc.len.toNat then mcc.sym2 else 0xF
    let n0 := if 0 < mnc.len.toNat then mnc.sym0 else 0xF
    let n1 := if 1 < mnc.len.toNat then mnc.sym1 else 0xF
    let n2 := if 2 < mnc.len.toNat then mnc.sym2 else 0xF
    ∃ t, exec (.enc mcc mnc) s = .next t ∧
      recordSyms (rspData t.rspWord) = #v[m1, m0, n2, m2, n1, n0, 0x4, 0x0, 0x8, 0x0] ∧
      OkEcho 0x1 t ∧ EmptyText t ∧ t.rspValid = true ∧ SameInterface s t

/-- R85 and R86, on the request word: the check of the reserved fields, else the record in DATA; and R85's example. -/
def Obligations.EncRequestDoesWhatR85Says : Prop :=
  ∀ (w : Request) (rest : List HostEvent) (s : State), s.pending = .issue w :: rest → w.extractLsb 47 44 = 0x1#4 →
    let m0 : Sym := if 0 < (w.extractLsb 15 12).toNat then w.extractLsb 39 36 else 0xF
    let m1 : Sym := if 1 < (w.extractLsb 15 12).toNat then w.extractLsb 35 32 else 0xF
    let m2 : Sym := if 2 < (w.extractLsb 15 12).toNat then w.extractLsb 31 28 else 0xF
    let n0 : Sym := if 0 < (w.extractLsb 11 8).toNat then w.extractLsb 27 24 else 0xF
    let n1 : Sym := if 1 < (w.extractLsb 11 8).toNat then w.extractLsb 23 20 else 0xF
    let n2 : Sym := if 2 < (w.extractLsb 11 8).toNat then w.extractLsb 19 16 else 0xF
    (w.extractLsb 43 40 ≠ 0x0#4 ∨ w.extractLsb 7 0 ≠ 0x00#8 →
      step s = .next (afterRequest s rest (illegalRspWord w) [])) ∧
    (w.extractLsb 43 40 = 0x0#4 → w.extractLsb 7 0 = 0x00#8 →
      step s = .next (afterRequest s rest
        (okRspWord 0x1 (m1 ++ m0 ++ n2 ++ m2 ++ n1 ++ n0 ++ 0x4#4 ++ 0x0#4 ++ 0x8#4 ++ 0x0#4)) [])) ∧
    (w = 0x103104103300#48 → step s = .next (afterRequest s rest 0x0100001300144080#64 []))

/-- R89: the bytes of the ENC result, and its DATA as a 40-bit value. -/
def Obligations.EncDataByBytesAndAsANumber : Prop :=
  ∀ (mcc mnc : Code) (s : State),
    let m0 := if 0 < mcc.len.toNat then mcc.sym0 else 0xF
    let m1 := if 1 < mcc.len.toNat then mcc.sym1 else 0xF
    let m2 := if 2 < mcc.len.toNat then mcc.sym2 else 0xF
    let n0 := if 0 < mnc.len.toNat then mnc.sym0 else 0xF
    let n1 := if 1 < mnc.len.toNat then mnc.sym1 else 0xF
    let n2 := if 2 < mnc.len.toNat then mnc.sym2 else 0xF
    ∃ t, exec (.enc mcc mnc) s = .next t ∧
      recordByte (rspData t.rspWord) 0 = m1 ++ m0 ∧ recordByte (rspData t.rspWord) 1 = n2 ++ m2 ∧
      recordByte (rspData t.rspWord) 2 = n1 ++ n0 ∧ recordByte (rspData t.rspWord) 3 = 0x40#8 ∧
      recordByte (rspData t.rspWord) 4 = 0x80#8 ∧
      rspData t.rspWord = (m1.setWidth 40 <<< 36) ||| (m0.setWidth 40 <<< 32) ||| (n2.setWidth 40 <<< 28) |||
        (m2.setWidth 40 <<< 24) ||| (n1.setWidth 40 <<< 20) ||| (n0.setWidth 40 <<< 16) ||| 0x4080#40

/-- R88, its five cases (a) to (e). -/
def Obligations.EncCornerCases : Prop :=
  ∀ (mcc mnc : Code) (s : State), ∃ t, exec (.enc mcc mnc) s = .next t ∧
    let r := recordSyms (rspData t.rspWord)
    (mcc.len = 0 → r[1] = 0xF ∧ r[0] = 0xF ∧ r[3] = 0xF) ∧
    (mnc.len = 0 → r[5] = 0xF ∧ r[4] = 0xF ∧ r[2] = 0xF) ∧
    (mcc.len = 1 → r[0] = 0xF ∧ r[3] = 0xF) ∧ (mcc.len = 2 → r[3] = 0xF) ∧
    (mnc.len = 1 → r[4] = 0xF ∧ r[2] = 0xF) ∧
    (mnc.len = 2 → r[2] = 0xF ∧ (recordByte (rspData t.rspWord) 1).extractLsb 7 4 = 0xF#4) ∧
    (3 ≤ mcc.len.toNat → exec (.enc { mcc with len := 3 } mnc) s = .next t) ∧
    (3 ≤ mnc.len.toNat → exec (.enc mcc { mnc with len := 3 }) s = .next t) ∧
    (∃ v w, encRequest .refuse (txt "3108") (txt "410333") = some v ∧
      encRequest .refuse (txt "310") (txt "410") = some w ∧ issueRequest v s = issueRequest w s) ∧
    (∀ mcc' mnc', AgreeOnPresent mcc mcc' → AgreeOnPresent mnc mnc' → exec (.enc mcc' mnc') s = .next t) ∧
    (r[6] = 0x4 ∧ r[7] = 0x0 ∧ r[8] = 0x8 ∧ r[9] = 0x0)

/-- R87: ENC has no error outcome, copies every present symbol unchanged whatever it is, and a present 0xF gives the
record that padding gives. -/
def Obligations.EncCopiesAnyPresentSymbol : Prop :=
  ∀ (mcc mnc : Code) (s : State), ∃ t, exec (.enc mcc mnc) s = .next t ∧ rspStatus t.rspWord = 0b00#2 ∧
    let r := recordSyms (rspData t.rspWord)
    (0 < mcc.len.toNat → r[1] = mcc.sym0) ∧ (1 < mcc.len.toNat → r[0] = mcc.sym1) ∧
    (2 < mcc.len.toNat → r[3] = mcc.sym2) ∧ (0 < mnc.len.toNat → r[5] = mnc.sym0) ∧
    (1 < mnc.len.toNat → r[4] = mnc.sym1) ∧ (2 < mnc.len.toNat → r[2] = mnc.sym2) ∧
    (∀ mcc' mnc', paddedSyms mcc' = paddedSyms mcc → paddedSyms mnc' = paddedSyms mnc →
      exec (.enc mcc' mnc') s = .next t)

/-! ### DEC -/

/-- DEC always completes: its DATA holds the codes `r1 r0 r3` and `r5 r4 r2` with the fillers removed, in the layout of an
ENC payload (R102 to R104); nothing but the response registers changes. -/
def Obligations.DecWritesTheCodesWithoutFillers : Prop :=
  ∀ (record : Record) (s : State),
    let r := recordSyms record
    let mcc := [r[1], r[0], r[3]].filter (fun x => x ≠ 0xF)
    let mnc := [r[5], r[4], r[2]].filter (fun x => x ≠ 0xF)
    ∃ t, exec (.dec record) s = .next t ∧
      payloadMcc (rspData t.rspWord) =
        ⟨mcc.getD 0 0xF, mcc.getD 1 0xF, mcc.getD 2 0xF, BitVec.ofNat 4 mcc.length⟩ ∧
      payloadMnc (rspData t.rspWord) =
        ⟨mnc.getD 0 0xF, mnc.getD 1 0xF, mnc.getD 2 0xF, BitVec.ofNat 4 mnc.length⟩ ∧
      (rspData t.rspWord).extractLsb 7 0 = 0x00#8 ∧
      (payloadMcc (rspData t.rspWord)).len.toNat ≤ 3 ∧ (payloadMnc (rspData t.rspWord)).len.toNat ≤ 3 ∧
      (∃ i, decode (0x1#4 ++ 0x0#4 ++ rspData t.rspWord) = .ok i) ∧
      OkEcho 0x2 t ∧ EmptyText t ∧ t.rspValid = true ∧ SameInterface s t

/-- R105 and R106, on the request word: the check of the reserved field, else the two codes in DATA; and R105's
example. -/
def Obligations.DecRequestDoesWhatR105Says : Prop :=
  ∀ (w : Request) (rest : List HostEvent) (s : State), s.pending = .issue w :: rest → w.extractLsb 47 44 = 0x2#4 →
    let r0 : Sym := w.extractLsb 39 36
    let r1 : Sym := w.extractLsb 35 32
    let r2 : Sym := w.extractLsb 31 28
    let r3 : Sym := w.extractLsb 27 24
    let r4 : Sym := w.extractLsb 23 20
    let r5 : Sym := w.extractLsb 19 16
    let mcc := [r1, r0, r3].filter (fun x => x ≠ 0xF)
    let mnc := [r5, r4, r2].filter (fun x => x ≠ 0xF)
    (w.extractLsb 43 40 ≠ 0x0#4 → step s = .next (afterRequest s rest (illegalRspWord w) [])) ∧
    (w.extractLsb 43 40 = 0x0#4 →
      step s = .next (afterRequest s rest
        (okRspWord 0x2 (mcc.getD 0 0xF ++ mcc.getD 1 0xF ++ mcc.getD 2 0xF ++ mnc.getD 0 0xF ++ mnc.getD 1 0xF ++
          mnc.getD 2 0xF ++ BitVec.ofNat 4 mcc.length ++ BitVec.ofNat 4 mnc.length ++ 0x00#8)) [])) ∧
    (w = 0x201300624080#48 → step s = .next (afterRequest s rest 0x0200003102603300#64 []))

/-- R107, its five cases (a) to (e). -/
def Obligations.DecCornerCases : Prop :=
  ∀ (record : Record) (s : State), ∃ t, exec (.dec record) s = .next t ∧
    let r := recordSyms record
    let mcc := payloadMcc (rspData t.rspWord)
    let mnc := payloadMnc (rspData t.rspWord)
    (r[0] = 0xF → r[1] = 0xF → r[2] = 0xF → r[3] = 0xF → r[4] = 0xF → r[5] = 0xF → mcc.len = 0 ∧ mnc.len = 0) ∧
    (r[0] = 0xF → r[1] = 0x3 → r[2] = 0x2 → r[3] = 0x1 → r[4] = 0x4 → r[5] = 0x1 →
      presentSyms mcc = [0x3, 0x1] ∧ presentSyms mnc = [0x1, 0x4, 0x2]) ∧
    (r[1] ≠ 0xF → r[0] ≠ 0xF → r[3] ≠ 0xF → presentSyms mcc = [r[1], r[0], r[3]]) ∧
    (r[5] ≠ 0xF → r[4] ≠ 0xF → r[2] ≠ 0xF → presentSyms mnc = [r[5], r[4], r[2]]) ∧
    (∀ record' : Record, record'.extractLsb 39 16 = record.extractLsb 39 16 → exec (.dec record') s = .next t) ∧
    (rspStatus t.rspWord = 0b00#2 ∧ mcc.len.toNat = ([r[1], r[0], r[3]].filter (fun x => x ≠ 0xF)).length ∧
      mnc.len.toNat = ([r[5], r[4], r[2]].filter (fun x => x ≠ 0xF)).length)

/-- R108: the selection of DEC undoes the interleave of ENC, so DEC of an ENC result gives the padded codes with their
fillers removed. -/
def Obligations.DecUndoesTheInterleave : Prop :=
  ∀ (mcc mnc : Code) (s : State), ∃ t u, exec (.enc mcc mnc) s = .next t ∧
    exec (.dec (rspData t.rspWord)) t = .next u ∧
    let o := recordSyms (rspData t.rspWord)
    [o[1], o[0], o[3]] = paddedSyms mcc ∧ [o[5], o[4], o[2]] = paddedSyms mnc ∧
    presentSyms (payloadMcc (rspData u.rspWord)) = (paddedSyms mcc).filter (fun x => x ≠ 0xF) ∧
    presentSyms (payloadMnc (rspData u.rspWord)) = (paddedSyms mnc).filter (fun x => x ≠ 0xF)

/-- R90, the round trip: for codes of 0 to 3 digit symbols DEC of the ENC result returns the same two codes with the same
lengths; and it does not when a present symbol is 0xF, because the decoder removes it. -/
def Obligations.EncThenDecReturnsTheCodes : Prop :=
  ∀ (mcc mnc : Code) (s : State), ∃ t u, exec (.enc mcc mnc) s = .next t ∧
    exec (.dec (rspData t.rspWord)) t = .next u ∧
    (DigitCode mcc → DigitCode mnc →
      (payloadMcc (rspData u.rspWord)).len = mcc.len ∧ (payloadMnc (rspData u.rspWord)).len = mnc.len ∧
      presentSyms (payloadMcc (rspData u.rspWord)) = presentSyms mcc ∧
      presentSyms (payloadMnc (rspData u.rspWord)) = presentSyms mnc) ∧
    (mcc.len.toNat ≤ 3 → 0xF ∈ presentSyms mcc → (payloadMcc (rspData u.rspWord)).len ≠ mcc.len) ∧
    (mnc.len.toNat ≤ 3 → 0xF ∈ presentSyms mnc → (payloadMnc (rspData u.rspWord)).len ≠ mnc.len)

/-- R109: re-encoding a DEC result gives back r0..r5 and the suffix when no code holds an internal filler; when one does,
the filler moves to the end of its code; and R109's example. -/
def Obligations.DecThenEncMovesFillersToTheEnd : Prop :=
  ∀ (record : Record) (s : State), ∃ t u, exec (.dec record) s = .next t ∧
    exec (.enc (payloadMcc (rspData t.rspWord)) (payloadMnc (rspData t.rspWord))) t = .next u ∧
    let r := recordSyms record
    let z := recordSyms (rspData u.rspWord)
    (NoInternalFiller r[1] r[0] r[3] → NoInternalFiller r[5] r[4] r[2] →
      z = #v[r[0], r[1], r[2], r[3], r[4], r[5], 0x4, 0x0, 0x8, 0x0]) ∧
    [z[1], z[0], z[3]] = ([r[1], r[0], r[3]].filter (fun x => x ≠ 0xF) ++ [0xF, 0xF, 0xF]).take 3 ∧
    [z[5], z[4], z[2]] = ([r[5], r[4], r[2]].filter (fun x => x ≠ 0xF) ++ [0xF, 0xF, 0xF]).take 3 ∧
    z[6] = 0x4 ∧ z[7] = 0x0 ∧ z[8] = 0x8 ∧ z[9] = 0x0 ∧
    (record.extractLsb 39 16 = 0xF32141#24 → rspData u.rspWord = 0x132F414080#40)

/-! ### CAPL and CAPG -/

/-- CAPL always completes: its tokens, warning bit and text are those of R121 to R123, laid out as R134 says; nothing but
the response registers changes. -/
def Obligations.CaplListsTheTechnologies : Prop :=
  ∀ (b : Byte) (s : State), ∃ t, exec (.capl b) s = .next t ∧
    HoldsTokens (rspData t.rspWord) (lteNumbers b) (b &&& 0x07 ≠ 0) ∧
    t.text = textBuffer (numbersText s.names (lteNumbers b) (b &&& 0x07 ≠ 0)) ∧
    t.textLen = BitVec.ofNat 8 (numbersText s.names (lteNumbers b) (b &&& 0x07 ≠ 0)).length ∧
    (s.names.wellFormed = true → responseText (response t) = numbersText s.names (lteNumbers b) (b &&& 0x07 ≠ 0)) ∧
    OkEcho 0x3 t ∧ t.rspValid = true ∧ SameInterface s t

/-- CAPG always completes: its tokens, warning bit and text are those of R124 to R126, laid out as R134 says; nothing but
the response registers changes. -/
def Obligations.CapgListsTheTechnologies : Prop :=
  ∀ (b : Byte) (s : State), ∃ t, exec (.capg b) s = .next t ∧
    HoldsTokens (rspData t.rspWord) (gsmNumbers b) (b &&& 0x03 ≠ 0) ∧
    t.text = textBuffer (numbersText s.names (gsmNumbers b) (b &&& 0x03 ≠ 0)) ∧
    t.textLen = BitVec.ofNat 8 (numbersText s.names (gsmNumbers b) (b &&& 0x03 ≠ 0)).length ∧
    (s.names.wellFormed = true → responseText (response t) = numbersText s.names (gsmNumbers b) (b &&& 0x03 ≠ 0)) ∧
    OkEcho 0x4 t ∧ t.rspValid = true ∧ SameInterface s t

/-- R135, on the request word: the check of the reserved fields, else the tokens, W and the text; and R135's example. -/
def Obligations.CaplRequestDoesWhatR135Says : Prop :=
  ∀ (w : Request) (rest : List HostEvent) (s : State), s.pending = .issue w :: rest → w.extractLsb 47 44 = 0x3#4 →
    let b : Byte := w.extractLsb 7 0
    let toks : List (BitVec 4) :=
      (if b.getLsbD 7 then [1] else []) ++
      (if b.getLsbD 6 then [if b.extractLsb 5 4 = 1#2 then 3 else if b.extractLsb 5 4 = 2#2 then 4 else 2] else []) ++
      (if b.getLsbD 3 then [5] else [])
    let warn : Bool := b.extractLsb 2 0 ≠ 0#3
    (w.extractLsb 43 40 ≠ 0x0#4 ∨ w.extractLsb 39 8 ≠ 0#32 →
      step s = .next (afterRequest s rest (illegalRspWord w) [])) ∧
    (w.extractLsb 43 40 = 0x0#4 → w.extractLsb 39 8 = 0#32 →
      step s = .next (afterRequest s rest
        (okRspWord 0x3 (0#20 ++ BitVec.ofNat 3 toks.length ++ BitVec.ofBool warn ++
          toks.getD 0 0 ++ toks.getD 1 0 ++ toks.getD 2 0 ++ toks.getD 3 0))
        (numbersText s.names toks warn))) ∧
    (w = 0x300000000040#48 →
      step s = .next (afterRequest s rest 0x0300000000022000#64 (txt "E-UTRAN in WB-S1, NB-S1 modes")))

/-- R136, on the request word: the check of the reserved fields, else the tokens, W and the text; and R136's example. -/
def Obligations.CapgRequestDoesWhatR136Says : Prop :=
  ∀ (w : Request) (rest : List HostEvent) (s : State), s.pending = .issue w :: rest → w.extractLsb 47 44 = 0x4#4 →
    let b : Byte := w.extractLsb 7 0
    let toks : List (BitVec 4) :=
      (if b.getLsbD 7 then [if b.extractLsb 3 2 = 1#2 then 7 else if b.extractLsb 3 2 = 2#2 then 8 else 6] else []) ++
      (if b.getLsbD 6 then [9] else []) ++ (if b.getLsbD 5 then [10] else []) ++ (if b.getLsbD 4 then [11] else [])
    let warn : Bool := b.extractLsb 1 0 ≠ 0#2
    (w.extractLsb 43 40 ≠ 0x0#4 ∨ w.extractLsb 39 8 ≠ 0#32 →
      step s = .next (afterRequest s rest (illegalRspWord w) [])) ∧
    (w.extractLsb 43 40 = 0x0#4 → w.extractLsb 39 8 = 0#32 →
      step s = .next (afterRequest s rest
        (okRspWord 0x4 (0#20 ++ BitVec.ofNat 3 toks.length ++ BitVec.ofBool warn ++
          toks.getD 0 0 ++ toks.getD 1 0 ++ toks.getD 2 0 ++ toks.getD 3 0))
        (numbersText s.names toks warn))) ∧
    (w = 0x400000000080#48 →
      step s = .next (afterRequest s rest 0x0400000000026000#64 (txt "GSM + EC-GSM-IoT")))

/-- R138, its five cases (a) to (e). -/
def Obligations.CapabilityCornerCases : Prop :=
  ∀ (b : Byte) (s : State), ∃ l g, exec (.capl b) s = .next l ∧ exec (.capg b) s = .next g ∧
    (b = 0x00 → HoldsTokens (rspData l.rspWord) [] false ∧ EmptyText l ∧
      HoldsTokens (rspData g.rspWord) [] false ∧ EmptyText g) ∧
    (0x01 ≤ b.toNat → b.toNat ≤ 0x07 → HoldsTokens (rspData l.rspWord) [] true ∧
      responseText (response l) = txt " -- WARNING: Reserved bits set") ∧
    (0x01 ≤ b.toNat → b.toNat ≤ 0x03 → HoldsTokens (rspData g.rspWord) [] true ∧
      responseText (response g) = txt " -- WARNING: Reserved bits set") ∧
    (b = 0x10 ∨ b = 0x20 ∨ b = 0x30 → HoldsTokens (rspData l.rspWord) [] false ∧ EmptyText l) ∧
    (b = 0x04 ∨ b = 0x08 ∨ b = 0x0C → HoldsTokens (rspData g.rspWord) [] false ∧ EmptyText g) ∧
    (b = 0xFF → HoldsTokens (rspData l.rspWord) [1, 2, 5] true ∧ HoldsTokens (rspData g.rspWord) [6, 9, 10, 11] true) ∧
    ((rspData l.rspWord).extractLsb 19 17).toNat ≤ 3 ∧ ((rspData g.rspWord).extractLsb 19 17).toNat ≤ 4

/-- R127: a mode sub-field whose enable bit is clear is ignored, so the response is that of the byte with the sub-field
cleared; 0x30 and 0x0C give no token and no warning; and the masks cover each byte exactly once. -/
def Obligations.ModeBitsWithoutTheirEnableAreIgnored : Prop :=
  (∀ (b : Byte) (s : State), ∃ t, exec (.capl b) s = .next t ∧
    (b &&& 0x40 = 0 → exec (.capl (b &&& ~~~0x30#8)) s = .next t)) ∧
  (∀ (b : Byte) (s : State), ∃ t, exec (.capg b) s = .next t ∧
    (b &&& 0x80 = 0 → exec (.capg (b &&& ~~~0x0C#8)) s = .next t)) ∧
  (∀ s : State, ∃ l g, exec (.capl 0x30) s = .next l ∧ HoldsTokens (rspData l.rspWord) [] false ∧
    exec (.capg 0x0C) s = .next g ∧ HoldsTokens (rspData g.rspWord) [] false) ∧
  0x80#8 ||| 0x40#8 ||| 0x30#8 ||| 0x08#8 ||| 0x07#8 = 0xFF#8 ∧
  0x80#8 ||| 0x40#8 ||| 0x20#8 ||| 0x10#8 ||| 0x0C#8 ||| 0x03#8 = 0xFF#8 ∧
  0x80 + 0x40 + 0x30 + 0x08 + 0x07 = 0xFF ∧ 0x80 + 0x40 + 0x20 + 0x10 + 0x0C + 0x03 = 0xFF

/-- R132 and R133: the text of a capability response is what its DATA renders to: the names of its tokens joined, and the
warning suffix exactly when WARN is set; with no token and a warning it is the suffix exactly, and with neither it is
empty. -/
def Obligations.TextRendersTheTokens : Prop :=
  ∀ (b : Byte) (s : State) (i : Instr), i = .capl b ∨ i = .capg b → s.names.wellFormed = true →
    ∃ t, exec i s = .next t ∧
      let d := rspData t.rspWord
      let toks := [d.extractLsb 15 12, d.extractLsb 11 8, d.extractLsb 7 4, d.extractLsb 3 0].take
        (d.extractLsb 19 17).toNat
      responseText (response t) =
        (txt ", ").intercalate (toks.map (nameByNumber s.names)) ++
          (if d.getLsbD 16 then txt " -- WARNING: Reserved bits set" else []) ∧
      (toks = [] → d.getLsbD 16 = true → responseText (response t) = txt " -- WARNING: Reserved bits set") ∧
      (toks = [] → d.getLsbD 16 = false → responseText (response t) = [])

/-- R139: TEXT_LEN is at most TEXT_MAX for every NAME that R131 allows; with the default entries the longest texts have
74 and 90 bytes, for exactly the bytes R139 lists, and those of 0xFF are R139's examples. -/
def Obligations.TextLengthIsBounded : Prop :=
  (∀ (b : Byte) (s : State), s.names.wellFormed = true → ∃ l g, exec (.capl b) s = .next l ∧
    exec (.capg b) s = .next g ∧ l.textLen.toNat ≤ 164 ∧ g.textLen.toNat ≤ 164 ∧
    l.textLen.toNat = (numbersText s.names (lteNumbers b) (b &&& 0x07 ≠ 0)).length ∧
    g.textLen.toNat = (numbersText s.names (gsmNumbers b) (b &&& 0x03 ≠ 0)).length) ∧
  (∀ (b : Byte) (s : State), s.names = defaultNames → ∃ l g, exec (.capl b) s = .next l ∧
    exec (.capg b) s = .next g ∧ l.textLen.toNat ≤ 74 ∧ g.textLen.toNat ≤ 90 ∧
    (l.textLen.toNat = 74 ↔ (0xC9 ≤ b.toNat ∧ b.toNat ≤ 0xCF) ∨ (0xF9 ≤ b.toNat ∧ b.toNat ≤ 0xFF)) ∧
    (g.textLen.toNat = 90 ↔ (0xF1 ≤ b.toNat ∧ b.toNat ≤ 0xF3) ∨ (0xFD ≤ b.toNat ∧ b.toNat ≤ 0xFF)) ∧
    (b = 0xFF →
      responseText (response l) =
        txt "UTRAN, E-UTRAN in WB-S1, NB-S1 modes, NG-RAN -- WARNING: Reserved bits set" ∧
      responseText (response g) =
        txt "GSM + EC-GSM-IoT, GSM COMPACT, CDMA2000 HRPD, CDMA2000 1xRTT -- WARNING: Reserved bits set"))

/-! ### Steps, responses and reads -/

/-- When the next interaction issues a word that decodes to a command, the step is that command's meaning on the state
with the interaction taken off the list; and `withFetchWord` puts a word where the next step takes it. -/
def Obligations.StepRunsTheDecodedCommand : Prop :=
  (∀ (s : State) (w : Request) (rest : List HostEvent) (i : Instr),
    s.pending = .issue w :: rest → decode w = .ok i → step s = exec i { s with pending := rest }) ∧
  (∀ (s : State) (nbits n : Nat) (i : Instr),
    decodeTableWord nbits n = some i → step (s.withFetchWord nbits n) = exec i s)

/-- R151 and R152: an illegal word completes with STATUS ILLEGAL, the OP echo, DATA 0 and the empty text, and with
RSP_VALID 1; nothing else changes. -/
def Obligations.IllegalWordTakesTheIllegalResponse : Prop :=
  ∀ (w : Request) (rest : List HostEvent) (s : State), s.pending = .issue w :: rest → IllegalWord w →
    step s = .next (afterRequest s rest (illegalRspWord w) [])

/-- R26: STATUS is 0b00 after every word that is executed to its result and 0b01 after every word that is rejected, so
0b10 and 0b11 are never written; and OP echoes the word's OP field whatever it is (R27). -/
def Obligations.StatusSaysWhetherTheWordIsLegal : Prop :=
  ∀ (w : Request) (rest : List HostEvent) (s : State), s.pending = .issue w :: rest →
    ∃ t, step s = .next t ∧ (¬ IllegalWord w → rspStatus t.rspWord = 0b00#2) ∧
      (IllegalWord w → rspStatus t.rspWord = 0b01#2) ∧ rspOp t.rspWord = w.extractLsb 47 44

/-- R197 and R194: every issued request completes, whatever its value, and after any number of requests the response is
the one the last of them gets when it is issued alone after reset. -/
def Obligations.EveryRequestCompletes : Prop :=
  ∀ (ws : List Request) (w : Request) (s : State), s.pending = (ws ++ [w]).map .issue →
    ∃ t, runPending s = .next t ∧ t.pending = [] ∧ t.rspValid = true ∧ t.observed = s.observed ∧
      RespondsAlone s.names w (response t)

/-- R32: while RSP_VALID is 0 a read of RSP_WORD, TEXT or TEXT_LEN is a fault. -/
def Obligations.ReadOfNoValueFaults : Prop :=
  ∀ (s : State) (what : ReadTarget) (rest : List HostEvent), s.pending = .read what :: rest →
    s.rspValid = false → what ≠ .rspValid → step s = .fault .readBeforeResponse

/-- An allowed read returns the registers it asks for and changes none of them (R31, R48). -/
def Obligations.ReadReturnsTheRegisters : Prop :=
  ∀ (s : State) (what : ReadTarget) (rest : List HostEvent), s.pending = .read what :: rest →
    s.rspValid = true ∨ what = .rspValid →
    step s = .next { s with pending := rest, observed := s.observed ++ [readOf s what] }

/-- A step faults exactly at a read of a register that holds no value, and no step is refused (R32, R152, R197). -/
def Obligations.FaultsAreExactlyForbiddenReads : Prop :=
  ∀ s : State,
    ((∃ f, step s = .fault f) ↔
      s.rspValid = false ∧ ∃ what rest, s.pending = .read what :: rest ∧ what ≠ .rspValid) ∧
    ∀ r, step s ≠ .refused r

/-- After reset RSP_VALID is 0, RSP_WORD, TEXT and TEXT_LEN hold no value (a read of any of them faults) and NAME is as
configured (R33, R198).  That the lists `pending` and `observed` are empty is about the model's own fields
(notes/assumptions/5.md), and that `State.reset` is such a state, with its NAME, is the model's choice
(notes/assumptions/2.md). -/
def Obligations.ResetLeavesNoResponse : Prop :=
  ∀ names : OpenNames,
    (State.resetWith names).rspValid = false ∧ (State.resetWith names).names = names ∧
    (State.resetWith names).pending = [] ∧ (State.resetWith names).observed = [] ∧
    (∀ (what : ReadTarget) (rest : List HostEvent), what ≠ .rspValid →
      step { State.resetWith names with pending := .read what :: rest } = .fault .readBeforeResponse) ∧
    State.reset = State.resetWith State.reset.names

/-- The reset event, in any state, sets RSP_VALID to 0, leaves RSP_WORD, TEXT and TEXT_LEN holding no value (a read of any
of them then faults) and does not change NAME (R190, R33).  That it clears neither `pending`, but for itself, nor
`observed` is about the model's own fields and the model's choice (notes/assumptions/5.md). -/
def Obligations.ResetEventClearsTheResponse : Prop :=
  ∀ (s : State) (rest : List HostEvent), s.pending = .reset :: rest →
    ∃ t, step s = .next t ∧ t.rspValid = false ∧ t.names = s.names ∧ t.pending = rest ∧ t.observed = s.observed ∧
      ∀ (what : ReadTarget) (rest' : List HostEvent), what ≠ .rspValid →
        step { t with pending := .read what :: rest' } = .fault .readBeforeResponse

/-- R29: RSP_VALID is 0 after reset, every command's completion sets it to 1, and no step clears it but a reset. -/
def Obligations.RspValidIsSetByCommandsAndClearedByReset : Prop :=
  State.reset.rspValid = false ∧
  ∀ s : State,
    (∀ w rest, s.pending = .issue w :: rest → ∃ t, step s = .next t ∧ t.rspValid = true) ∧
    (∀ t, step s = .next t → s.rspValid = true → t.rspValid = false → ∃ rest, s.pending = .reset :: rest) ∧
    (∀ t, step s = .next t → s.rspValid = false → t.rspValid = true → ∃ w rest, s.pending = .issue w :: rest)

/-- R30: a command writes the four response registers together, and what it writes depends on nothing but the request
word and NAME. -/
def Obligations.ResponseDependsOnTheWordAndNameAlone : Prop :=
  ∀ (w : Request) (rest rest' : List HostEvent) (s s' : State), s.pending = .issue w :: rest →
    s'.pending = .issue w :: rest' → s'.names = s.names →
    ∃ t t', step s = .next t ∧ step s' = .next t' ∧ t'.rspWord = t.rspWord ∧ t'.text = t.text ∧
      t'.textLen = t.textLen ∧ t.rspValid = true ∧ t'.rspValid = true

/-- R28: after every command each TEXT byte at or above TEXT_LEN is 0x00 and TEXT_LEN is at most TEXT_MAX (for a NAME that
R131 allows); after ENC, DEC or an illegal request it is 0; and after CAPL and CAPG they hold the technology text. -/
def Obligations.TextBytesPastTextLenAreZero : Prop :=
  ∀ (w : Request) (rest : List HostEvent) (s : State), s.pending = .issue w :: rest → s.names.wellFormed = true →
    ∃ t, step s = .next t ∧ t.textLen.toNat ≤ 164 ∧
      (∀ i : Fin textMax, t.textLen.toNat ≤ i.val → t.text[i.val] = 0) ∧
      (w.extractLsb 47 44 = 0x1#4 ∨ w.extractLsb 47 44 = 0x2#4 ∨ IllegalWord w → t.textLen = 0) ∧
      (∀ b, decode w = .ok (.capl b) →
        responseText (response t) = numbersText s.names (lteNumbers b) (b &&& 0x07 ≠ 0)) ∧
      (∀ b, decode w = .ok (.capg b) →
        responseText (response t) = numbersText s.names (gsmNumbers b) (b &&& 0x03 ≠ 0))

/-! ### Invariants and whole runs -/

/-- The invariant holds after reset (with NAME's default entries, notes/assumptions/2.md, and with any that R131
allows). -/
def Obligations.InvariantHoldsAtReset : Prop :=
  Inv State.reset ∧ ∀ names : OpenNames, names.wellFormed = true → Inv (State.resetWith names)

/-- Every step keeps the invariant: NAME stays as R131 says, a valid response stays one that a command writes (R25, R26,
R28, R61, R152), and so does every response the host has read. -/
def Obligations.StepKeepsTheInvariant : Prop :=
  ∀ s t : State, Inv s → step s = .next t → Inv t

/-- The host's one obligation (R165, R192): a run of all pending interactions completes exactly when no register without a
value is read, and otherwise it faults at such a read.  That a read of RSP_VALID alone is none of these, so that a run
with one completes even while RSP_VALID is 0, is deduced from R31, R32 and R165 (notes/assumptions/6.md); a sentence of
R199, taken literally, says otherwise. -/
def Obligations.RunCompletesExactlyWhenTheHostObeys : Prop :=
  ∀ s : State,
    (hostObeys s.rspValid s.pending = true → ∃ t, runPending s = .next t ∧ t.pending = []) ∧
    (hostObeys s.rspValid s.pending = false → runPending s = .fault .readBeforeResponse)

/-- What the registers hold while RSP_VALID is 0 is never observed: two states that differ only in RSP_WORD, TEXT and
TEXT_LEN run alike and show the host the same (R7, R32).  So no run depends on the values that notes/assumptions/1.md
names. -/
def Obligations.RegistersWithoutAValueAreNeverObserved : Prop :=
  ∀ (n : Nat) (s s' : State), s.rspValid = false → s'.rspValid = false → s'.names = s.names →
    s'.pending = s.pending → s'.observed = s.observed →
    (∀ t, run n s = .next t → ∃ t', run n s' = .next t' ∧ t'.observed = t.observed ∧ t'.pending = t.pending ∧
      t'.rspValid = t.rspValid ∧ (t.rspValid = true → response t' = response t)) ∧
    (∀ f, run n s = .fault f → run n s' = .fault f)

/-- R34: no command writes NAME and reset does not change it, so it is the same after any run. -/
def Obligations.NameNeverChanges : Prop :=
  ∀ (n : Nat) (s t : State), run n s = .next t → t.names = s.names

/-- After a command completes every host read returns that command's response until the next command completes, and no
read changes it (R48, R49). -/
def Obligations.ReadsReturnTheLastResponse : Prop :=
  ∀ (whats : List ReadTarget) (w : Request) (s : State), s.pending = .issue w :: whats.map .read →
    ∃ t u, step s = .next t ∧ runPending s = .next u ∧ response u = response t ∧ u.rspValid = true ∧
      u.observed = s.observed ++ whats.map (readOf t)

/-- Commands complete in the order the host issues them, and each answer is the one its word gets when issued alone after
reset (R49, R192, R193, R199). -/
def Obligations.AnswersComeInTheOrderOfIssue : Prop :=
  ∀ (ws : List Request) (s : State), s.pending = askScript ws →
    ∃ t answers, runPending s = .next t ∧ t.pending = [] ∧ t.observed = s.observed ++ answers.map .response ∧
      List.Forall₂ (RespondsAlone s.names) ws answers

/-- An interaction with one instance changes no other, and interactions with two instances can be made in either order
(R35, R50).  For a reset event (notes/assumptions/21.md) and for an instance that does not exist
(notes/assumptions/14.md) this rests on the model's choice. -/
def Obligations.InstancesDoNotInteract : Prop :=
  (∀ (k : Nat) (e : HostEvent) (p q : Platform), platformInteract k e p = .next q →
    q.length = p.length ∧ ∀ j, j ≠ k → q[j]? = p[j]?) ∧
  (∀ (j k : Nat) (e e' : HostEvent) (p q q' : Platform), j ≠ k → platformInteract j e p = .next q →
    platformInteract k e' p = .next q' →
    ∃ u, platformInteract k e' q = .next u ∧ platformInteract j e q' = .next u)

/-- The instances of a platform start together at reset (R160, R198). -/
def Obligations.InstancesStartAtReset : Prop :=
  ∀ (configs : List OpenNames) (k : Nat) (s : State), (platformReset configs)[k]? = some s →
    s.rspValid = false ∧ s.pending = [] ∧ configs[k]? = some s.names

/-! ### The host contract and the assembly language -/

/-- R69: the ENC request built from two strings of any length has OP 0x1 and zero reserved fields; its slots hold the
symbols of the first three characters, or 0xF past the string's end; its lengths saturate at 15; later characters are
neither converted nor checked; and it is not built when one of the first three is rejected (R166). -/
def Obligations.EncRequestFromStrings : Prop :=
  ∀ (lc : Lowercase) (x y : Text),
    ((∀ c ∈ x.take 3 ++ y.take 3, symOf lc c ≠ none) → ∃ w, encRequest lc x y = some w ∧
      w.extractLsb 47 44 = 0x1#4 ∧ w.extractLsb 43 40 = 0x0#4 ∧ w.extractLsb 7 0 = 0x00#8 ∧
      (w.extractLsb 15 12).toNat = min x.length 15 ∧ (w.extractLsb 11 8).toNat = min y.length 15 ∧
      [w.extractLsb 39 36, w.extractLsb 35 32, w.extractLsb 31 28] =
        ((x.take 3).filterMap (symOf lc) ++ [0xF, 0xF, 0xF]).take 3 ∧
      [w.extractLsb 27 24, w.extractLsb 23 20, w.extractLsb 19 16] =
        ((y.take 3).filterMap (symOf lc) ++ [0xF, 0xF, 0xF]).take 3) ∧
    ((∃ c ∈ x.take 3 ++ y.take 3, symOf lc c = none) → encRequest lc x y = none)

/-- The characters of the symbols are '0'..'9' and 'A'..'F', and are read back as them; under `refuse` no other character
is read, and under `fold` only 'a'..'f' besides (R166, R167). -/
def Obligations.SymbolsAndCharactersAgree : Prop :=
  (∀ x : Sym, charOf x = (txt "0123456789ABCDEF").getD x.toNat 0) ∧
  (∀ (c : Byte) (x : Sym), symOf .refuse c = some x ↔ c = charOf x) ∧
  (∀ (c : Byte) (x : Sym), symOf .fold c = some x ↔ c = charOf x ∨ (10 ≤ x.toNat ∧ c.toNat = x.toNat + 87))

/-- R169: with at least one pair and no flag the host prints `AT+CRSM=214,28512,0,0,<5P>,<payload>`, where the payload is
the records of the pairs, in pair order, each the DATA of that pair's ENC request; and with no pair it prints no AT line:
the output is the reports alone. -/
def Obligations.PairsPrintTheAtLine : Prop :=
  (∀ (tables : List (List Record)) (answers : List Response),
    planOutput ⟨[], tables⟩ answers = reports tables answers) ∧
  ∀ (hc : HostConfig) (ps : List (Text × Text)) (s : State), ps ≠ [] →
    (∀ p ∈ ps, startsDash p.1 = false ∧ startsDash p.2 = false ∧ encRequest hc.lowercase p.1 p.2 ≠ none) →
    ∃ records t,
      hostMain hc (ps.flatMap fun p => [p.1, p.2]) s =
        (.printed (txt "AT+CRSM=214,28512,0,0," ++ decimal (5 * ps.length) ++ txt "," ++
          records.flatMap recordText ++ [0x0A#8]), t) ∧
      List.Forall₂ (fun p record => ∃ w r, encRequest hc.lowercase p.1 p.2 = some w ∧ RespondsAlone s.names w r ∧
        rspData r.word = record) ps records

/-- An odd number of positional arguments is the error E_PAIRING, exit code 1, and reaches no block (R168, R178, R179).
That it is this error even when a character would be rejected too is the model's choice (notes/assumptions/22.md), and
so is the form of the message (notes/assumptions/9.md). -/
def Obligations.OddPositionalsAreAnError : Prop :=
  ∀ (hc : HostConfig) (args : List Text) (s : State), args.length % 2 = 1 →
    (∀ a ∈ args, startsDash a = false) →
    hostMain hc args s = (.failed .pairing (txt "[ERROR]" ++ hc.errorText.pairing), s) ∧
    exitCode (hostMain hc args s).1 = some 1

/-- As the whole command line, a table flag alone, or a table flag and a token that starts with '-', is the error
E_MISSING_VALUE, and one token that starts with '-' and is none of the four flags is E_UNKNOWN_FLAG; neither reaches a
block; and every error exits with code 1 and prints its one message where ERROR_STREAM says and nothing on the other
stream (R176, R177, R178).  That nothing stands between the tag and ERROR_TEXT is the model's choice
(notes/assumptions/9.md), and that a help flag in the place of a value is a missing value is deduced
(notes/assumptions/7.md).  Of longer command lines, where several checks may fail (notes/assumptions/8.md), it says
nothing. -/
def Obligations.FlagErrorsEndTheInvocation : Prop :=
  ∀ (hc : HostConfig) (flag value : Text) (s : State),
    (flag = txt "-p" ∨ flag = txt "--plmn" →
      hostMain hc [flag] s = (.failed .missingValue (txt "[ERROR]" ++ hc.errorText.missingValue), s) ∧
      (startsDash value = true →
        hostMain hc [flag, value] s = (.failed .missingValue (txt "[ERROR]" ++ hc.errorText.missingValue), s))) ∧
    (startsDash flag = true → flag ≠ txt "-p" → flag ≠ txt "--plmn" → flag ≠ txt "-h" → flag ≠ txt "--help" →
      hostMain hc [flag] s = (.failed .unknownFlag (txt "[ERROR]" ++ hc.errorText.unknownFlag), s)) ∧
    ∀ (e : HostError) (message : Text),
      exitCode (.failed e message) = some 1 ∧ printedOn hc hc.errorStream (.failed e message) = message ∧
      ∀ stream, stream ≠ hc.errorStream → printedOn hc stream (.failed e message) = []

/-- The payload is what stands after the last comma, or the whole input without one (R171); a payload whose length is not
a positive multiple of 10 is the error E_MALFORMED, with no report and no request (R172, R178).  That nothing stands
between the tag and ERROR_TEXT in its message is the model's choice (notes/assumptions/9.md), and that a payload of a wrong
length is this error whatever its characters is deduced (notes/assumptions/22.md). -/
def Obligations.BadPayloadLengthIsAnError : Prop :=
  ∀ (hc : HostConfig) (before payload : Text) (s : State), chr ',' ∉ payload →
    payload.length = 0 ∨ payload.length % 10 ≠ 0 →
    (startsDash (before ++ txt "," ++ payload) = false →
      hostMain hc [txt "-p", before ++ txt "," ++ payload] s =
        (.failed .malformed (txt "[ERROR]" ++ hc.errorText.malformed), s)) ∧
    (startsDash payload = false →
      hostMain hc [txt "--plmn", payload] s = (.failed .malformed (txt "[ERROR]" ++ hc.errorText.malformed), s))

/-- R180: an invocation that prints no result (a host error, a rejected input, help, no arguments) issues no request: the
block is as it was; and no invocation stops the block. -/
def Obligations.HostErrorsNeverReachTheBlock : Prop :=
  ∀ (hc : HostConfig) (args : List Text) (s : State),
    (hostMain hc args s).1 ≠ .blockStopped ∧
    ((∀ out, (hostMain hc args s).1 ≠ .printed out) → (hostMain hc args s).2 = s)

/-- R173 to R175: a table of whole records, with or without a preamble that ends in a comma, prints one line a record in
input order, numbered from 1: the two codes of the record and the technology texts of its bytes 3 and 4. -/
def Obligations.TablePrintsOneLineForEachRecord : Prop :=
  ∀ (hc : HostConfig) (before : Text) (records : List Record) (s : State), records ≠ [] →
    s.names.wellFormed = true → before = [] ∨ before.getLast? = some (chr ',') → startsDash before = false →
    ∃ t, hostMain hc [txt "-p", before ++ records.flatMap recordText] s =
      (.printed (records.zipIdx.flatMap fun (record, j) =>
        let r := recordSyms record
        decimal (j + 1) ++ txt ". MCC: " ++ symsText ([r[1], r[0], r[3]].filter (fun x => x ≠ 0xF)) ++
          txt " MNC: " ++ symsText ([r[5], r[4], r[2]].filter (fun x => x ≠ 0xF)) ++
          txt " RAT(s): " ++
          numbersText s.names (lteNumbers (record.extractLsb 15 8)) (record.extractLsb 15 8 &&& 0x07#8 ≠ 0) ++
          txt ", " ++
          numbersText s.names (gsmNumbers (record.extractLsb 7 0)) (record.extractLsb 7 0 &&& 0x03#8 ≠ 0) ++
          [0x0A#8]), t)

/-- The whole round trip through the host (R90, R169, R174): the AT line the host prints for pairs of digit codes of at
most 3 characters, given back to it as a table, prints those codes, with the names of the fixed suffix 4080. -/
def Obligations.EncodedPairsDecodeBack : Prop :=
  ∀ (hc : HostConfig) (ps : List (Text × Text)) (s : State), ps ≠ [] →
    (∀ p ∈ ps, DigitText p.1 ∧ p.1.length ≤ 3 ∧ DigitText p.2 ∧ p.2.length ≤ 3) →
    ∃ line t u, hostMain hc (ps.flatMap fun p => [p.1, p.2]) s = (.printed (line ++ [0x0A#8]), t) ∧
      hostMain hc [txt "-p", line] t =
        (.printed (ps.zipIdx.flatMap fun (p, j) =>
          decimal (j + 1) ++ txt ". MCC: " ++ p.1 ++ txt " MNC: " ++ p.2 ++
            txt " RAT(s): E-UTRAN in WB-S1, NB-S1 modes, GSM + EC-GSM-IoT" ++ [0x0A#8]), u)

/-- A standalone decode reads the first 6 characters only, and rejects a string of fewer, with no request (R101, R166). -/
def Obligations.StandaloneDecodeReadsSixCharacters : Prop :=
  ∀ (lc : Lowercase) (x : Text) (s : State),
    (x.length < 6 → hostDecode lc x s = (none, s)) ∧
    (∀ y, x.take 6 = y.take 6 → hostDecode lc y s = hostDecode lc x s) ∧
    (∀ r : Vector Sym 10, x.take 6 = (symsText r.toList).take 6 →
      (hostDecode lc x s).1 = some (symsText ([r[1], r[0], r[3]].filter (fun a => a ≠ 0xF)),
        symsText ([r[5], r[4], r[2]].filter (fun a => a ≠ 0xF))))

/-- R71: what a word prints assembles to a word that does the same to every block: the word itself, except that an ENC
word with a length above 3 loses its length and one with absent slots loses what they held, which the block never
needed. -/
def Obligations.DisassemblyKeepsTheCommand : Prop :=
  ∀ w : Request, ∃ v, assembleText .refuse (disassemble w) = some [v] ∧
    (∀ s : State, issueRequest v s = issueRequest w s) ∧
    ((∀ mcc mnc, decode w ≠ .ok (.enc mcc mnc)) → v = w)

/-- R70: `DECREC` expands to DEC of the record, CAPL of its characters 6 and 7 and CAPG of its characters 8 and 9; it
needs exactly 10 characters.  That it carries all ten symbols to DEC is deduced (notes/assumptions/10.md), and that it
rejects a string of more than 10 characters is the model's choice (notes/assumptions/19.md). -/
def Obligations.DecrecExpandsToThreeRequests : Prop :=
  (∀ (lc : Lowercase) (t : Text), t.length ≠ 10 → assemble lc (.decrec t) = none) ∧
  ∀ (lc : Lowercase) (record : Record),
    assemble lc (.decrec (recordText record)) = some
      [0x2#4 ++ 0x0#4 ++ record, 0x3#4 ++ 0x0#4 ++ (0#32 ++ record.extractLsb 15 8),
        0x4#4 ++ 0x0#4 ++ (0#32 ++ record.extractLsb 7 0)]

/-- R177: without arguments the host prints name and version, and with a help flag before any other the usage text; both
succeed, and neither issues a request. -/
def Obligations.HelpAndNoArgumentsSucceed : Prop :=
  ∀ (hc : HostConfig) (s : State),
    hostMain hc [] s = (.version hc.versionText, s) ∧
    exitCode (.version hc.versionText) = some 0 ∧
    (∀ (flag : Text) (rest : List Text), flag = txt "-h" ∨ flag = txt "--help" →
      hostMain hc (flag :: rest) s = (.usage hc.usageText, s)) ∧
    exitCode (.usage hc.usageText) = some 0
end

