-- ==== Sys2Proof/Laws/Bits.lean ====
section
/-! SUPPORT. Packing and reading fields: a field of a packed word is the field that was packed, and a word packed from
its own fields is the word. -/

namespace Sys2Proof.Machine

/-- A field of a concatenation that lies in its high part. -/
theorem field_append_high {n m : Nat} (a : BitVec n) (b : BitVec m) (lo len : Nat) (h : m ≤ lo) :
    (a ++ b).extractLsb' lo len = a.extractLsb' (lo - m) len := by
  ext i hi
  simp only [BitVec.getElem_extractLsb', BitVec.getLsbD_append]
  rw [if_neg (by omega), show lo + i - m = lo - m + i by omega]

/-- A field of a concatenation that lies in its low part. -/
theorem field_append_low {n m : Nat} (a : BitVec n) (b : BitVec m) (lo len : Nat) (h : lo + len ≤ m) :
    (a ++ b).extractLsb' lo len = b.extractLsb' lo len := by
  ext i hi
  simp only [BitVec.getElem_extractLsb', BitVec.getLsbD_append]
  rw [if_pos (by omega)]

/-- The whole of a word as a field of it. -/
theorem field_whole {n : Nat} (a : BitVec n) : a.extractLsb' 0 n = a := by
  ext i hi
  simp

/-- The field `v[hi:lo]` by its low end and its length. -/
theorem extractLsb_eq {n : Nat} (v : BitVec n) (hi lo : Nat) : v.extractLsb hi lo = v.extractLsb' lo (hi - lo + 1) := rfl

/-- A vector of ten symbols as its entries. -/
theorem syms_exists (v : Vector Sym 10) :
    ∃ a0 a1 a2 a3 a4 a5 a6 a7 a8 a9, v = #v[a0, a1, a2, a3, a4, a5, a6, a7, a8, a9] := by
  rcases v with ⟨⟨l⟩, h⟩
  match l, h with
  | [a0, a1, a2, a3, a4, a5, a6, a7, a8, a9], _ => exact ⟨a0, a1, a2, a3, a4, a5, a6, a7, a8, a9, rfl⟩

/-- The symbols of a packed record are the symbols packed (R44). -/
@[simp] theorem recordSyms_packSyms (v : Vector Sym 10) : recordSyms (packSyms v) = v := by
  obtain ⟨a0, a1, a2, a3, a4, a5, a6, a7, a8, a9, rfl⟩ := syms_exists v
  simp (disch := omega) only [recordSyms, packSyms, extractLsb_eq, field_append_high, field_append_low]
  simp only [Nat.reduceSub, Nat.reduceAdd, field_whole]
  rfl

/-- The record packed from its symbols is the record (R44). -/
@[simp] theorem packSyms_recordSyms (r : Record) : packSyms (recordSyms r) = r := by
  apply BitVec.eq_of_getLsbD_eq
  intro i hi
  simp only [packSyms, recordSyms, BitVec.getLsbD_append, extractLsb_eq]
  simp [BitVec.getLsbD_extractLsb']
  interval_cases i <;> simp

/-- The MCC of a payload packed from two codes (R62). -/
@[simp] theorem payloadMcc_packCodes (a b : Code) : payloadMcc (packCodes a b) = a := by
  simp (disch := omega) only [payloadMcc, packCodes, extractLsb_eq, field_append_high, field_append_low]
  simp only [Nat.reduceSub, Nat.reduceAdd, field_whole]

/-- The MNC of a payload packed from two codes (R62). -/
@[simp] theorem payloadMnc_packCodes (a b : Code) : payloadMnc (packCodes a b) = b := by
  simp (disch := omega) only [payloadMnc, packCodes, extractLsb_eq, field_append_high, field_append_low]
  simp only [Nat.reduceSub, Nat.reduceAdd, field_whole]

@[simp] theorem rspStatus_packRsp (st : Status) (op : BitVec 4) (d : BitVec 40) :
    rspStatus (packRsp st op d) = statusBits st := by
  simp (disch := omega) only [rspStatus, packRsp, extractLsb_eq, field_append_high]
  simp only [Nat.reduceSub, Nat.reduceAdd, field_whole]

@[simp] theorem rspRsvd0_packRsp (st : Status) (op : BitVec 4) (d : BitVec 40) : rspRsvd0 (packRsp st op d) = 0#2 := by
  simp (disch := omega) only [rspRsvd0, packRsp, extractLsb_eq, field_append_high, field_append_low]
  simp only [Nat.reduceSub, Nat.reduceAdd, field_whole]

@[simp] theorem rspOp_packRsp (st : Status) (op : BitVec 4) (d : BitVec 40) : rspOp (packRsp st op d) = op := by
  simp (disch := omega) only [rspOp, packRsp, extractLsb_eq, field_append_high, field_append_low]
  simp only [Nat.reduceSub, Nat.reduceAdd, field_whole]

@[simp] theorem rspRsvd1_packRsp (st : Status) (op : BitVec 4) (d : BitVec 40) : rspRsvd1 (packRsp st op d) = 0#16 := by
  simp (disch := omega) only [rspRsvd1, packRsp, extractLsb_eq, field_append_high, field_append_low]
  simp only [Nat.reduceSub, Nat.reduceAdd, field_whole]

@[simp] theorem rspData_packRsp (st : Status) (op : BitVec 4) (d : BitVec 40) : rspData (packRsp st op d) = d := by
  simp (disch := omega) only [rspData, packRsp, extractLsb_eq, field_append_low]
  simp only [Nat.reduceSub, Nat.reduceAdd, field_whole]

@[simp] theorem reqOp_encode (i : Instr) : reqOp (encode i) = opcode i := by
  simp (disch := omega) only [reqOp, encode, extractLsb_eq, field_append_high]
  simp only [Nat.reduceSub, Nat.reduceAdd, field_whole]

@[simp] theorem reqRsvd_encode (i : Instr) : reqRsvd (encode i) = 0#4 := by
  simp (disch := omega) only [reqRsvd, encode, extractLsb_eq, field_append_high, field_append_low]
  simp only [Nat.reduceSub, Nat.reduceAdd, field_whole]

@[simp] theorem reqPayload_encode (i : Instr) : reqPayload (encode i) = encodePayload i := by
  simp (disch := omega) only [reqPayload, encode, extractLsb_eq, field_append_low]
  simp only [Nat.reduceSub, Nat.reduceAdd, field_whole]

end Sys2Proof.Machine
end

