-- ==== Sys2Proof/Laws/State.lean ====
section
/-! SUPPORT. One lemma for each field of State and each update of it: `complete`, `resetEvent`, and the interface
fields; and the fields of a packed response. -/

namespace Sys2Proof.Machine

@[simp] theorem complete_rspWord (r : Response) (s : State) : (complete r s).rspWord = r.word := rfl
@[simp] theorem complete_text (r : Response) (s : State) : (complete r s).text = r.text := rfl
@[simp] theorem complete_textLen (r : Response) (s : State) : (complete r s).textLen = r.textLen := rfl
@[simp] theorem complete_rspValid (r : Response) (s : State) : (complete r s).rspValid = true := rfl
@[simp] theorem complete_names (r : Response) (s : State) : (complete r s).names = s.names := rfl
@[simp] theorem complete_pending (r : Response) (s : State) : (complete r s).pending = s.pending := rfl
@[simp] theorem complete_observed (r : Response) (s : State) : (complete r s).observed = s.observed := rfl
@[simp] theorem response_complete (r : Response) (s : State) : response (complete r s) = r := rfl

/-- A completion replaces the whole response: nothing of the one before it is left (R194). -/
@[simp] theorem complete_complete (r q : Response) (s : State) : complete r (complete q s) = complete r s := rfl

@[simp] theorem resetEvent_rspValid (s : State) : (resetEvent s).rspValid = false := rfl
@[simp] theorem resetEvent_names (s : State) : (resetEvent s).names = s.names := rfl
@[simp] theorem resetEvent_pending (s : State) : (resetEvent s).pending = s.pending := rfl
@[simp] theorem resetEvent_observed (s : State) : (resetEvent s).observed = s.observed := rfl
@[simp] theorem resetEvent_rspWord (s : State) : (resetEvent s).rspWord = 0 := rfl
@[simp] theorem resetEvent_text (s : State) : (resetEvent s).text = Vector.replicate textMax 0 := rfl
@[simp] theorem resetEvent_textLen (s : State) : (resetEvent s).textLen = 0 := rfl

@[simp] theorem raiseIllegal_rspValid (w : Request) (s : State) : (raiseIllegal w s).rspValid = true := rfl
@[simp] theorem raiseIllegal_names (w : Request) (s : State) : (raiseIllegal w s).names = s.names := rfl
@[simp] theorem raiseIllegal_pending (w : Request) (s : State) : (raiseIllegal w s).pending = s.pending := rfl
@[simp] theorem raiseIllegal_observed (w : Request) (s : State) : (raiseIllegal w s).observed = s.observed := rfl
@[simp] theorem response_raiseIllegal (w : Request) (s : State) : response (raiseIllegal w s) = illegalResponse w := rfl

@[simp] theorem response_setPending (s : State) (p : List HostEvent) :
    response { s with pending := p } = response s := rfl
@[simp] theorem response_setObserved (s : State) (o : List Observation) :
    response { s with observed := o } = response s := rfl
@[simp] theorem readResult_setPending (what : ReadTarget) (s : State) (p : List HostEvent) :
    readResult what { s with pending := p } = readResult what s := rfl
@[simp] theorem readResult_setObserved (what : ReadTarget) (s : State) (o : List Observation) :
    readResult what { s with observed := o } = readResult what s := rfl

@[simp] theorem mkResponse_word (st : Status) (op : BitVec 4) (d : BitVec 40) (t : Text) :
    (mkResponse st op d t).word = packRsp st op d := rfl
@[simp] theorem mkResponse_text (st : Status) (op : BitVec 4) (d : BitVec 40) (t : Text) :
    (mkResponse st op d t).text = textBuffer t := rfl
@[simp] theorem mkResponse_textLen (st : Status) (op : BitVec 4) (d : BitVec 40) (t : Text) :
    (mkResponse st op d t).textLen = BitVec.ofNat 8 t.length := rfl

end Sys2Proof.Machine
end

