-- ==== Sys2Proof/Laws/Exec.lean ====
section
/-! SUPPORT. What a command and an issued request can do, said once: they complete with one response. -/

namespace Sys2Proof.Machine

/-- Every command completes, with the response that is a function of the command and NAME (R14, R30). -/
theorem exec_eq (i : Instr) (s : State) : exec i s = .next (complete (commandResponse s.names i) s) := by
  cases i <;> rfl

/-- Every issued request completes, with the response that is a function of the word and NAME (R14, R30, R152). -/
theorem issueRequest_eq (w : Request) (s : State) :
    issueRequest w s = .next (complete (wordResponse s.names w) s) := by
  cases h : decode w with
  | ok i => simpa only [issueRequest, wordResponse, h] using exec_eq i s
  | error e => simp only [issueRequest, wordResponse, h, raiseIllegal]

/-- A request word that decodes to a command gets that command's response. -/
theorem wordResponse_ok {names : OpenNames} {w : Request} {i : Instr} (h : decode w = .ok i) :
    wordResponse names w = commandResponse names i := by
  simp [wordResponse, h]

/-- A request word that does not decode gets the ILLEGAL response. -/
theorem wordResponse_error {names : OpenNames} {w : Request} {e : IllegalReason} (h : decode w = .error e) :
    wordResponse names w = illegalResponse w := by
  simp [wordResponse, h]

/-- Everything a host read can do: it answers only by recording what it read, and it faults exactly when the read is
not allowed (R31, R32). -/
theorem hostRead_cases (what : ReadTarget) (s : State) :
    (readAllowed s.rspValid what = true ∧ ∃ o, readResult what s = some o ∧
      hostRead what s = .next { s with observed := s.observed ++ [o] }) ∨
    (readAllowed s.rspValid what = false ∧ hostRead what s = .fault .readBeforeResponse) := by
  cases hv : s.rspValid <;> cases what <;> simp [hostRead, readResult, readAllowed, hv]

/-- Everything a host interaction can do. -/
theorem interact_cases (e : HostEvent) (s : State) :
    (∃ w, e = .issue w ∧ interact e s = .next (complete (wordResponse s.names w) s)) ∨
    (e = .reset ∧ interact e s = .next (resetEvent s)) ∨
    (∃ what o, e = .read what ∧ readAllowed s.rspValid what = true ∧ readResult what s = some o ∧
      interact e s = .next { s with observed := s.observed ++ [o] }) ∨
    (∃ what, e = .read what ∧ readAllowed s.rspValid what = false ∧
      interact e s = .fault .readBeforeResponse) := by
  cases e with
  | issue w => exact .inl ⟨w, rfl, issueRequest_eq w s⟩
  | reset => exact .inr (.inl ⟨rfl, rfl⟩)
  | read what =>
    rcases hostRead_cases what s with ⟨ha, o, ho, hr⟩ | ⟨ha, hr⟩
    · exact .inr (.inr (.inl ⟨what, o, rfl, ha, ho, hr⟩))
    · exact .inr (.inr (.inr ⟨what, rfl, ha, hr⟩))

end Sys2Proof.Machine
end

