-- ==== Sys2Proof/Laws/PerInstr.lean ====
section
/-! SUPPORT. The statements about every command as syntax, one lemma for each constructor. -/

open Sys2Proof.Machine

/-- Every command's request word is well formed as R60 to R64 say: its OP is the opcode map's, RSVD is 0, the reserved
part of an ENC, CAPL or CAPG payload is 0, and its payload is the command's. -/
def Sys2Proof.Laws.EncodeLegal.Statement (i : Sys2Proof.Instr) : Prop :=
  i.wellFormed = true ∧ reqOp (Sys2Proof.encode i) = Sys2Proof.opcode i ∧ reqRsvd (Sys2Proof.encode i) = 0#4 ∧
  reqPayload (Sys2Proof.encode i) = Sys2Proof.encodePayload i ∧
  (Sys2Proof.opcode i = 0x1#4 → reqRsvdEnc (Sys2Proof.encode i) = 0#8) ∧
  (Sys2Proof.opcode i = 0x3#4 ∨ Sys2Proof.opcode i = 0x4#4 → reqRsvdCap (Sys2Proof.encode i) = 0#32)

theorem Sys2Proof.Laws.EncodeLegal.enc (mcc mnc : Sys2Proof.Code) :
    Sys2Proof.Laws.EncodeLegal.Statement (.enc mcc mnc) := by
  refine ⟨rfl, reqOp_encode _, reqRsvd_encode _, reqPayload_encode _, fun _ => ?_, by simp [Sys2Proof.opcode]⟩
  simp (disch := omega) only [reqRsvdEnc, Sys2Proof.encode, Sys2Proof.encodePayload, packCodes, extractLsb_eq,
    field_append_low]
  rfl

theorem Sys2Proof.Laws.EncodeLegal.dec (record : Sys2Proof.Record) :
    Sys2Proof.Laws.EncodeLegal.Statement (.dec record) :=
  ⟨rfl, reqOp_encode _, reqRsvd_encode _, reqPayload_encode _, by simp [Sys2Proof.opcode], by simp [Sys2Proof.opcode]⟩

theorem Sys2Proof.Laws.EncodeLegal.capl (b : Sys2Proof.Byte) : Sys2Proof.Laws.EncodeLegal.Statement (.capl b) := by
  refine ⟨rfl, reqOp_encode _, reqRsvd_encode _, reqPayload_encode _, by simp [Sys2Proof.opcode], fun _ => ?_⟩
  simp (disch := omega) only [reqRsvdCap, Sys2Proof.encode, Sys2Proof.encodePayload, extractLsb_eq,
    field_append_high, field_append_low]
  rfl

theorem Sys2Proof.Laws.EncodeLegal.capg (b : Sys2Proof.Byte) : Sys2Proof.Laws.EncodeLegal.Statement (.capg b) := by
  refine ⟨rfl, reqOp_encode _, reqRsvd_encode _, reqPayload_encode _, by simp [Sys2Proof.opcode], fun _ => ?_⟩
  simp (disch := omega) only [reqRsvdCap, Sys2Proof.encode, Sys2Proof.encodePayload, extractLsb_eq,
    field_append_high, field_append_low]
  rfl
end

