-- ==== Sys2Proof/Laws/Step.lean ====
section
/-! SUPPORT. What a step and a run can do. -/

namespace Sys2Proof.Machine

/-- With no interaction pending a step changes nothing. -/
theorem step_idle {s : State} (h : s.pending = []) : step s = .next s := by
  simp [step, h]

/-- A step does the next interaction, after taking it off the list. -/
theorem step_cons {s : State} {e : HostEvent} {rest : List HostEvent} (h : s.pending = e :: rest) :
    step s = interact e { s with pending := rest } := by
  simp [step, h]

/-- Everything a step that answers a next state can have done. -/
theorem step_cases {s t : State} (h : step s = .next t) :
    (s.pending = [] ∧ t = s) ∨
    (∃ w rest, s.pending = .issue w :: rest ∧ t = complete (wordResponse s.names w) { s with pending := rest }) ∨
    (∃ rest, s.pending = .reset :: rest ∧ t = resetEvent { s with pending := rest }) ∨
    (∃ what o rest, s.pending = .read what :: rest ∧ readResult what s = some o ∧
      t = { s with pending := rest, observed := s.observed ++ [o] }) := by
  cases hp : s.pending with
  | nil =>
    rw [step_idle hp] at h
    exact .inl ⟨rfl, (Host.Outcome.next.inj h).symm⟩
  | cons e rest =>
    rw [step_cons hp] at h
    rcases interact_cases e { s with pending := rest } with
      ⟨w, rfl, hi⟩ | ⟨rfl, hi⟩ | ⟨what, o, rfl, -, ho, hi⟩ | ⟨what, rfl, -, hi⟩ <;> rw [hi] at h
    · exact .inr (.inl ⟨w, rest, rfl, (Host.Outcome.next.inj h).symm⟩)
    · exact .inr (.inr (.inl ⟨rest, rfl, (Host.Outcome.next.inj h).symm⟩))
    · exact .inr (.inr (.inr ⟨what, o, rest, rfl, ho, (Host.Outcome.next.inj h).symm⟩))
    · cases h

@[simp] theorem run_zero (s : State) : run 0 s = .next s := rfl

theorem run_succ_next {s t : State} (n : Nat) (h : step s = .next t) : run (n + 1) s = run n t := by
  simp [run, h]

/-- A run of `m + n` steps is a run of `m` and then one of `n`. -/
theorem run_add {s t : State} (m n : Nat) (h : run m s = .next t) : run (m + n) s = run n t := by
  induction m generalizing s with
  | zero => rw [run_zero, Host.Outcome.next.injEq] at h; rw [h, Nat.zero_add]
  | succ m ih =>
    rw [Nat.add_right_comm]
    cases hs : step s with
    | next u => rw [run_succ_next _ hs] at h ⊢; exact ih h
    | fault f => simp [run, hs] at h
    | refused r => simp [run, hs] at h

/-- An induction over a run: what holds before it and is kept by every step holds after it. -/
theorem run_induction {P : State → Prop} (hstep : ∀ s t, P s → step s = .next t → P t) {n : Nat} {s t : State}
    (h : run n s = .next t) (hs : P s) : P t := by
  induction n generalizing s with
  | zero => rw [run_zero, Host.Outcome.next.injEq] at h; exact h ▸ hs
  | succ n ih =>
    cases hu : step s with
    | next u => rw [run_succ_next n hu] at h; exact ih h (hstep s u hs hu)
    | fault f => simp [run, hu] at h
    | refused r => simp [run, hu] at h

end Sys2Proof.Machine
end

