-- ==== Sys2Proof/Laws/Text.lean ====
section
/-! SUPPORT. The response text: what the buffer holds, the text a host reads from it, and how long a rendered text is. -/

namespace Sys2Proof.Machine

/-- Byte `i` of the buffer of `t` (R28). -/
@[simp] theorem textBuffer_get (t : Text) (i : Nat) (h : i < textMax) : (textBuffer t)[i] = t.getD i 0 := by
  simp [textBuffer]

/-- At and above the length of the text every byte of the buffer is 0x00 (R28). -/
theorem textBuffer_zero (t : Text) (i : Nat) (h : i < textMax) (hi : t.length ≤ i) : (textBuffer t)[i] = 0 := by
  rw [textBuffer_get, List.getD_eq_getElem?_getD, List.getElem?_eq_none hi]
  rfl

/-- The buffer of the empty text is all zeros. -/
@[simp] theorem textBuffer_nil : textBuffer [] = Vector.replicate textMax 0 := by
  ext i h
  simp

/-- A text that fits the buffer is read back from it. -/
theorem take_textBuffer (t : Text) (h : t.length ≤ textMax) : (textBuffer t).toList.take t.length = t := by
  apply List.ext_getElem
  · simpa using h
  · intro i h1 h2
    simp only [List.getElem_take, Vector.getElem_toList, textBuffer_get, List.getD_eq_getElem?_getD,
      List.getElem?_eq_getElem h2, Option.getD_some]

/-- The text a host reads in a response is the text the command wrote, when it fits the buffer (R24, R28). -/
theorem responseText_mkResponse (st : Status) (op : BitVec 4) (d : BitVec 40) (t : Text) (h : t.length ≤ textMax) :
    responseText (mkResponse st op d t) = t := by
  have hn : (BitVec.ofNat 8 t.length).toNat = t.length := by
    simp only [BitVec.toNat_ofNat]
    exact Nat.mod_eq_of_lt (by simp only [textMax] at h; omega)
  simp only [responseText, mkResponse, hn]
  exact take_textBuffer t h

/-- A well-formed NAME entry has at most NAME_MAX bytes (R131). -/
theorem nameWellFormed_length {t : Text} (h : nameWellFormed t = true) : t.length ≤ nameMax := by
  simp only [nameWellFormed, Bool.and_eq_true, decide_eq_true_eq] at h
  exact h.1

/-- Every entry of a well-formed NAME table has at most NAME_MAX bytes (R131). -/
theorem nameOf_length (names : OpenNames) (h : names.wellFormed = true) (t : Token) :
    (nameOf names t).length ≤ nameMax := by
  simp only [OpenNames.wellFormed, Bool.and_eq_true] at h
  obtain ⟨⟨⟨h3, h4⟩, h7⟩, h8⟩ := h
  cases t
  case eutranNb => exact nameWellFormed_length h3
  case eutranWb => exact nameWellFormed_length h4
  case gsmOnly => exact nameWellFormed_length h7
  case ecGsmOnly => exact nameWellFormed_length h8
  all_goals exact of_decide_eq_true rfl

/-- The length of joined texts: all of them, and a separator between each two. -/
theorem join_length (s : Text) (a : Text) (ts : List Text) :
    (join s (a :: ts)).length = a.length + (ts.map fun t => s.length + t.length).sum := by
  induction ts generalizing a with
  | nil => simp [join, List.intercalate]
  | cons b rest ih =>
    have h := ih b
    simp only [join, List.intercalate_cons_cons, List.length_append, List.map_cons, List.sum_cons] at h ⊢
    omega

/-- A rendered text is at most what R139 computes: the names, the separators between them, and the suffix. -/
theorem render_length_le (names : OpenNames) (h : names.wellFormed = true) (toks : List Token) (w : Bool)
    (hn : toks.length ≤ 4) : (render names toks w).length ≤ textMax := by
  have hw : (if w then warnText else []).length ≤ 30 := by cases w <;> decide
  have hs : sep.length = 2 := by decide
  have hl := nameOf_length names h
  simp only [nameMax] at hl
  simp only [render, List.length_append, textMax]
  match toks, hn with
  | [], _ => simp [join, List.intercalate]; omega
  | [a], _ => have := hl a; simp only [List.map_cons, List.map_nil, join_length, List.sum_nil]; omega
  | [a, b], _ =>
    have := hl a; have := hl b
    simp only [List.map_cons, List.map_nil, join_length, List.sum_nil, List.sum_cons]; omega
  | [a, b, c], _ =>
    have := hl a; have := hl b; have := hl c
    simp only [List.map_cons, List.map_nil, join_length, List.sum_nil, List.sum_cons]; omega
  | [a, b, c, d], _ =>
    have := hl a; have := hl b; have := hl c; have := hl d
    simp only [List.map_cons, List.map_nil, join_length, List.sum_nil, List.sum_cons]; omega

theorem tokenIf_length (b : Bool) (t : Token) : (tokenIf b t).length ≤ 1 := by
  cases b <;> simp [tokenIf]

/-- CAPL yields at most 3 tokens (R138). -/
theorem lteTokens_length (b : Byte) : (lteTokens b).length ≤ 3 := by
  have h7 := tokenIf_length (b.getLsbD 7) .utran
  have h6 := tokenIf_length (b.getLsbD 6) (eutranToken (eutranMode b))
  have h3 := tokenIf_length (b.getLsbD 3) .ngRan
  simp only [lteTokens, List.length_append]
  omega

/-- CAPG yields at most 4 tokens (R138). -/
theorem gsmTokens_length (b : Byte) : (gsmTokens b).length ≤ 4 := by
  have h7 := tokenIf_length (b.getLsbD 7) (gsmToken (gsmMode b))
  have h6 := tokenIf_length (b.getLsbD 6) .gsmCompact
  have h5 := tokenIf_length (b.getLsbD 5) .cdmaHrpd
  have h4 := tokenIf_length (b.getLsbD 4) .cdma1x
  simp only [gsmTokens, List.length_append]
  omega

end Sys2Proof.Machine
end

