-- ==== Sys2Proof/Tests/Slice0.lean ====
section
/-! SUPPORT. Tests of the model, each expected value taken from spec/95_test_vectors.md or from the rule its comment
names, and for each obligation with hypotheses a theorem that concrete values meet them. -/

namespace Sys2Proof.Tests

set_option Elab.async false

open Sys2Proof Sys2Proof.Machine

/-- The block after reset with interactions to make. -/
def blockWith (events : List HostEvent) : State := { State.reset with pending := events }

/-- The state after one step, if it answers one. -/
def after (s : State) : Option State :=
  match step s with
  | .next t => some t
  | .fault _ => none
  | .refused _ => none

/-- The state after the block runs one request word as its first. -/
def asked (w : Request) : Option State := after (blockWith [.issue w])

/-- RSP_WORD after one request word. -/
def answerWord (w : Request) : Option RspWord := (asked w).map fun t => t.rspWord

/-- The valid bytes of TEXT after one request word. -/
def answerText (w : Request) : Option Text := (asked w).map fun t => responseText (response t)

/-- Whether a step stops with a fault. -/
def faults (s : State) : Bool :=
  match step s with
  | .next _ => false
  | .fault _ => true
  | .refused _ => false

/-- The name of the check of R67 that rejects a word. -/
def rejection (w : Request) : Option IllegalReason :=
  match decode w with
  | .ok _ => none
  | .error e => some e

/-- A host with the default HOST_LOWERCASE. -/
def host : HostConfig where
  lowercase := .refuse
  errorText := ⟨txt " pairs", txt " value", txt " flag", txt " malformed table data"⟩
  errorStream := .stderr
  usageText := txt "usage"
  versionText := txt "version"
  failurePick := 0

/-- A host with HOST_LOWERCASE `fold`. -/
def foldingHost : HostConfig := { host with lowercase := .fold }

/-- How the host ends for a command line, on a block after reset. -/
def invoked (hc : HostConfig) (args : List String) : HostResult := (hostMain hc (args.map txt) State.reset).1

/-- The code of three symbols 3, 1, 0, and others of R82's and R85's examples. -/
def code310 : Code := ⟨3, 1, 0, 3⟩
def code410 : Code := ⟨4, 1, 0, 3⟩
def code88 : Code := ⟨8, 8, 0xF, 2⟩

/-! ### Well-formedness: the checks refuse ill-formed terms (R131, R67) -/

theorem test_name_of_33_bytes_is_refused : nameWellFormed (List.replicate 33 0x41#8) = false := by decide

theorem test_name_of_32_bytes_is_accepted : nameWellFormed (List.replicate 32 0x41#8) = true := by decide

theorem test_name_with_nul_is_refused : nameWellFormed [0x47#8, 0x00#8] = false := by decide

theorem test_name_that_is_not_ascii_is_refused : nameWellFormed [0x47#8, 0x80#8] = false := by decide

theorem test_names_with_one_bad_entry_are_refused :
    ({ defaultNames with ecGsmOnly := [0x00#8] } : OpenNames).wellFormed = false := by decide +kernel

theorem test_default_names_are_well_formed : defaultNames.wellFormed = true := by decide +kernel

theorem test_every_command_is_well_formed :
    (Instr.enc code310 ⟨0xF, 0xF, 0xF, 15⟩).wellFormed = true ∧ (Instr.dec 0xFFFFFFFFFF).wellFormed = true ∧
    (Instr.capl 0xFF).wellFormed = true ∧ (Instr.capg 0xFF).wellFormed = true := by decide

/-- R67 (a): the reserved OPs, at both ends of each range. -/
theorem test_reserved_ops_are_rejected :
    rejection 0x000000000000 = some .reservedOp ∧ rejection 0x500000000000 = some .reservedOp ∧
    rejection 0xF01300144080 = some .reservedOp := by decide

/-- R67 (b), (c), (d): the rows of spec/95_test_vectors.md section 2.5. -/
theorem test_reserved_fields_are_rejected :
    rejection 0x2F1300144080 = some .reservedField ∧ rejection 0x103104103301 = some .reservedEnc ∧
    rejection 0x300000000140 = some .reservedCap ∧ rejection 0x401000000080 = some .reservedCap := by decide

/-! ### Decoding: words written out from the fields of R60 to R64 -/

/-- ENC: OP 1, RSVD 0, MCC slots 2 8 9, MNC slots 8 8 F, lengths 3 and 2, RSVD_E 0 (R62). -/
theorem test_decode_enc :
    decodeTableWord 48 0b0001_0000_0010_1000_1001_1000_1000_1111_0011_0010_0000_0000 =
      some (.enc ⟨0x2, 0x8, 0x9, 3⟩ ⟨0x8, 0x8, 0xF, 2⟩) := by decide

/-- DEC: OP 2, RSVD 0, the ten nibbles 1 3 0 0 6 2 4 0 8 0 (R63). -/
theorem test_decode_dec :
    decodeTableWord 48 0b0010_0000_0001_0011_0000_0000_0110_0010_0100_0000_1000_0000 =
      some (.dec 0x1300624080) := by decide

/-- CAPL: OP 3, RSVD 0, 32 zeros, the byte (R64). -/
theorem test_decode_capl :
    decodeTableWord 48 0b0011_0000_0000_0000_0000_0000_0000_0000_0000_0000_1100_1001 = some (.capl 0xC9) := by decide

/-- CAPG: OP 4, RSVD 0, 32 zeros, the byte (R64). -/
theorem test_decode_capg :
    decodeTableWord 48 0b0100_0000_0000_0000_0000_0000_0000_0000_0000_0000_1000_0100 = some (.capg 0x84) := by decide

theorem test_encode_is_the_word_of_the_table :
    encode (.enc code310 code410) = 0x103104103300 ∧ encode (.dec 0x82F9884080) = 0x2082F9884080 ∧
    encode (.capl 0xC8) = 0x3000000000C8 ∧ encode (.capg 0x8C) = 0x40000000008C := by decide

/-! ### One request (spec/95_test_vectors.md sections 1 and 2) -/

/-- S2, and the row with absent slots that hold other symbols. -/
theorem test_enc_pads_and_interleaves :
    answerWord 0x1028988F3200 = some 0x01000082F9884080 ∧ answerWord 0x103AB45E1200 = some 0x010000F3FF544080 := by
  decide +kernel

/-- S1, the LEN 15 row, and the present 0xF row. -/
theorem test_enc_truncates_and_copies :
    answerWord 0x103104104600 = some 0x0100001300144080 ∧ answerWord 0x10310410FF00 = some 0x0100001300144080 ∧
    answerWord 0x103F14103300 = some 0x010000F301144080 := by decide +kernel

/-- S3, and the rows with a short MNC and with symbols above 9. -/
theorem test_dec_deinterleaves :
    answerWord 0x201300624080 = some 0x0200003102603300 ∧ answerWord 0x2082F9884080 = some 0x02000028988F3200 ∧
    answerWord 0x20ABCDE94080 = some 0x020000BAD9EC3300 := by decide +kernel

/-- The internal-filler row and the two rows whose filler stands in one code only. -/
theorem test_dec_removes_fillers_anywhere :
    answerWord 0x20F32141FFFF = some 0x02000031F1422300 ∧ answerWord 0x203FF0FF4080 = some 0x02000030FFFF2000 ∧
    answerWord 0x2013F0FF4080 = some 0x020000310FFF3000 := by decide +kernel

/-- S5 for CAPL. -/
theorem test_capl_of_ff :
    answerWord 0x3000000000FF = some 0x0300000000071250 ∧
    answerText 0x3000000000FF =
      some (txt "UTRAN, E-UTRAN in WB-S1, NB-S1 modes, NG-RAN -- WARNING: Reserved bits set") := by decide +kernel

/-- The two E-UTRAN modes with an entry of their own (default NAME). -/
theorem test_capl_modes :
    answerWord 0x300000000050 = some 0x0300000000023000 ∧
    answerText 0x300000000050 = some (txt "E-UTRAN in NB-S1 mode only") ∧
    answerWord 0x300000000060 = some 0x0300000000024000 := by decide +kernel

/-- S5 for CAPG. -/
theorem test_capg_of_ff :
    answerWord 0x4000000000FF = some 0x04000000000969AB ∧
    answerText 0x4000000000FF =
      some (txt "GSM + EC-GSM-IoT, GSM COMPACT, CDMA2000 HRPD, CDMA2000 1xRTT -- WARNING: Reserved bits set") := by
  decide +kernel

/-- The two GSM modes with an entry of their own (default NAME), and the last response of program P5. -/
theorem test_capg_modes :
    answerWord 0x400000000084 = some 0x0400000000027000 ∧ answerText 0x400000000088 = some (txt "EC-GSM-IoT") ∧
    answerWord 0x4000000000C9 = some 0x0400000000058900 := by decide +kernel

/-- Section 2.5: an illegal word's response, and RSP_VALID after it. -/
theorem test_illegal_words_complete :
    answerWord 0xF01300144080 = some 0x4F00000000000000 ∧ answerWord 0x2F1300144080 = some 0x4200000000000000 ∧
    answerText 0x401000000080 = some [] ∧ (asked 0x000000000000).map (fun t => t.rspValid) = some true := by
  decide +kernel

/-- R32, the false variant of program P4: a read before the first request is a fault. -/
theorem test_read_before_the_first_request_faults :
    faults (blockWith [.read .rspWord]) = true ∧ faults (blockWith [.read .rspValid]) = false := by decide +kernel

/-! ### The host contract (spec/95_test_vectors.md section 2.6) and the assembly language -/

/-- S8. -/
theorem test_host_encodes_pairs :
    invoked host ["310", "410", "310", "260"] =
      .printed (txt "AT+CRSM=214,28512,0,0,10,13001440801300624080" ++ [0x0A#8]) := by decide +kernel

/-- The lowercase row: refused by default, and a report line with `fold`. -/
theorem test_host_lowercase :
    invoked host ["-p", "82f9884080"] = .refused ∧
    invoked foldingHost ["-p", "82f9884080"] =
      .printed (txt "1. MCC: 289 MNC: 88 RAT(s): E-UTRAN in WB-S1, NB-S1 modes, GSM + EC-GSM-IoT" ++ [0x0A#8]) := by
  decide +kernel

/-- The error rows. -/
theorem test_host_errors :
    invoked host ["310"] = .failed .pairing (txt "[ERROR] pairs") ∧
    invoked host ["-p"] = .failed .missingValue (txt "[ERROR] value") ∧
    invoked host ["-p", "-h"] = .failed .missingValue (txt "[ERROR] value") ∧
    invoked host ["-x"] = .failed .unknownFlag (txt "[ERROR] flag") := by decide +kernel

/-- The malformed-table rows (S7), and the refused one. -/
theorem test_host_malformed_tables :
    invoked host ["-p", "130062408"] = .failed .malformed (txt "[ERROR] malformed table data") ∧
    invoked host ["-p", "AT+CRSM=214,28512,0,0,5,"] = .failed .malformed (txt "[ERROR] malformed table data") ∧
    invoked host ["--plmn", "13006240801"] = .failed .malformed (txt "[ERROR] malformed table data") ∧
    invoked host ["-p", "1300624G80"] = .refused := by decide +kernel

theorem test_host_help_and_version :
    invoked host ["310", "-h"] = .usage (txt "usage") ∧ invoked host [] = .version (txt "version") := by decide +kernel

/-- Lines of the tables of section 2, with a comment and a pseudo-instruction (R68, R70). -/
theorem test_assembler :
    assembleText .refuse (txt "ENC \"289\", \"88\"  ; S2") = some [0x1028988F3200] ∧
    assembleText .refuse (txt "CAPG 0x8C") = some [0x40000000008C] ∧
    assembleText .refuse (txt ".req 0x113104103300") = some [0x113104103300] ∧
    assembleText .refuse (txt "DECREC \"1300624080\"") = some [0x201300624080, 0x300000000040, 0x400000000080] := by
  decide +kernel

/-- S3 and S1 through the host's strings (R69, R166). -/
theorem test_request_words_from_strings :
    assembleText .refuse (txt "DEC \"1300624080FFFFFF\"") = some [0x201300620000] ∧
    assembleText .refuse (txt "ENC \"3108\", \"410333\"") = some [0x103104104600] ∧
    assembleText .refuse (txt "ENC \"1234567890123456789\", \"12\"") = some [0x1012312FF200] := by decide +kernel

/-! ### Witnesses: concrete values that meet the hypotheses of each obligation -/

/-- DecodeOfEncodeIsTheCommand. -/
theorem witness_well_formed_commands :
    (Instr.enc code310 code88).wellFormed = true ∧ (Instr.dec 0x1300624080).wellFormed = true ∧
    (Instr.capl 0x40).wellFormed = true ∧ (Instr.capg 0x80).wellFormed = true := by decide

/-- EncodeOfDecodeIsTheWord, OperandsAreTheFieldsOfTheWord: a legal word of each command. -/
theorem witness_legal_words :
    decode 0x103104103300 = .ok (.enc code310 code410) ∧ decode 0x201300624080 = .ok (.dec 0x1300624080) ∧
    decode 0x300000000040 = .ok (.capl 0x40) ∧ decode 0x400000000080 = .ok (.capg 0x80) := ⟨rfl, rfl, rfl, rfl⟩

/-- IllegalWordsAreThoseOfR67, IllegalWordTakesTheIllegalResponse, StatusSaysWhetherTheWordIsLegal: an illegal word by each
of the four cases, at the ends of the OP ranges. -/
theorem witness_illegal_words :
    IllegalWord 0x000000000000 ∧ IllegalWord 0x500000000000 ∧ IllegalWord 0xF00000000000 ∧
    IllegalWord 0x2F1300144080 ∧ IllegalWord 0x103104103301 ∧ IllegalWord 0x300000000140 ∧
    IllegalWord 0x401000000080 := by
  refine ⟨?_, ?_, ?_, ?_, ?_, ?_, ?_⟩ <;> unfold IllegalWord <;> decide

/-- The same statements' other case: legal words of the OPs at the ends of the legal range. -/
theorem witness_words_that_are_not_illegal :
    ¬ IllegalWord 0x103104103300 ∧ ¬ IllegalWord 0x20FFFFFFFFFF ∧ ¬ IllegalWord 0x3000000000FF ∧
    ¬ IllegalWord 0x400000000000 := by unfold IllegalWord; decide

/-- TableRowsSelectTheirCommands: a word of each row. -/
theorem witness_table_rows :
    0x103104103300#48 &&& 0xFF00000000FF#48 = 0x100000000000#48 ∧
    0x20FFFFFFFFFF#48 &&& 0xFF0000000000#48 = 0x200000000000#48 ∧
    0x3000000000FF#48 &&& 0xFFFFFFFFFF00#48 = 0x300000000000#48 ∧
    0x4000000000FF#48 &&& 0xFFFFFFFFFF00#48 = 0x400000000000#48 := by decide

/-- EncRequestDoesWhatR85Says, StepRunsTheDecodedCommand, TextBytesPastTextLenAreZero: an ENC request pending, with each
reserved field wrong and with both right. -/
theorem witness_enc_requests :
    (blockWith [.issue 0x103104103300]).pending = [.issue 0x103104103300] ∧
    (0x103104103300#48).extractLsb 47 44 = 0x1#4 ∧ (0x103104103300#48).extractLsb 43 40 = 0x0#4 ∧
    (0x103104103300#48).extractLsb 7 0 = 0x00#8 ∧
    (0x113104103300#48).extractLsb 47 44 = 0x1#4 ∧ (0x113104103300#48).extractLsb 43 40 ≠ 0x0#4 ∧
    (0x103104103301#48).extractLsb 47 44 = 0x1#4 ∧ (0x103104103301#48).extractLsb 7 0 ≠ 0x00#8 := by decide

/-- EncCornerCases: lengths 0, 1, 2, 3 and 15, strings longer than 3, and codes that differ in absent slots only. -/
theorem witness_enc_corner_cases :
    (⟨3, 1, 0, 0⟩ : Code).len = 0 ∧ (⟨3, 1, 0, 1⟩ : Code).len = 1 ∧ (⟨3, 1, 0, 2⟩ : Code).len = 2 ∧
    3 ≤ (⟨3, 1, 0, 3⟩ : Code).len.toNat ∧ 3 ≤ (⟨3, 1, 0, 15⟩ : Code).len.toNat ∧
    AgreeOnPresent ⟨3, 0xA, 0xB, 1⟩ ⟨3, 0xF, 0xF, 1⟩ ∧ AgreeOnPresent ⟨3, 0xA, 0xB, 0⟩ ⟨7, 1, 2, 0⟩ := by
  unfold AgreeOnPresent; decide

/-- EncCopiesAnyPresentSymbol: three present slots, one of them 0xF, and two codes with the same padded symbols. -/
theorem witness_present_symbols :
    0 < (⟨3, 0xF, 1, 3⟩ : Code).len.toNat ∧ 2 < (⟨3, 0xF, 1, 3⟩ : Code).len.toNat ∧
    paddedSyms ⟨3, 0xF, 0xF, 3⟩ = paddedSyms ⟨3, 2, 5, 1⟩ := by decide

/-- DecRequestDoesWhatR105Says. -/
theorem witness_dec_requests :
    (blockWith [.issue 0x201300624080]).pending = [.issue 0x201300624080] ∧
    (0x201300624080#48).extractLsb 47 44 = 0x2#4 ∧ (0x201300624080#48).extractLsb 43 40 = 0x0#4 ∧
    (0x281300144080#48).extractLsb 47 44 = 0x2#4 ∧ (0x281300144080#48).extractLsb 43 40 ≠ 0x0#4 := by decide

/-- DecCornerCases: a record for each clause. -/
theorem witness_dec_corner_cases :
    recordSyms 0xFFFFFFFFFF = #v[0xF, 0xF, 0xF, 0xF, 0xF, 0xF, 0xF, 0xF, 0xF, 0xF] ∧
    recordSyms 0xF32141FFFF = #v[0xF, 3, 2, 1, 4, 1, 0xF, 0xF, 0xF, 0xF] ∧
    recordSyms 0x1300624080 = #v[1, 3, 0, 0, 6, 2, 4, 0, 8, 0] ∧
    (0x130062FFFF : Record).extractLsb 39 16 = (0x1300624080 : Record).extractLsb 39 16 := by decide

/-- EncThenDecReturnsTheCodes: digit codes of lengths 0 and 3, and a code with a present 0xF. -/
theorem witness_digit_codes :
    DigitCode code310 ∧ DigitCode ⟨0xF, 0xF, 0xF, 0⟩ ∧ (⟨3, 0xF, 1, 3⟩ : Code).len.toNat ≤ 3 ∧
    0xF ∈ presentSyms ⟨3, 0xF, 1, 3⟩ := by unfold DigitCode; decide

/-- DecThenEncMovesFillersToTheEnd: codes without an internal filler (all fillers, and none), one with, and R109's
record. -/
theorem witness_internal_fillers :
    NoInternalFiller 0xF 0xF 0xF ∧ NoInternalFiller 3 1 0 ∧ ¬ NoInternalFiller 3 0xF 1 ∧
    (0xF32141FFFF : Record).extractLsb 39 16 = 0xF32141#24 := by unfold NoInternalFiller; decide

/-- CaplRequestDoesWhatR135Says. -/
theorem witness_capl_requests :
    (blockWith [.issue 0x300000000040]).pending = [.issue 0x300000000040] ∧
    (0x300000000040#48).extractLsb 47 44 = 0x3#4 ∧ (0x300000000040#48).extractLsb 43 40 = 0x0#4 ∧
    (0x300000000040#48).extractLsb 39 8 = 0#32 ∧
    (0x310000000040#48).extractLsb 47 44 = 0x3#4 ∧ (0x310000000040#48).extractLsb 43 40 ≠ 0x0#4 ∧
    (0x300000000140#48).extractLsb 47 44 = 0x3#4 ∧ (0x300000000140#48).extractLsb 39 8 ≠ 0#32 := by decide

/-- CapgRequestDoesWhatR136Says. -/
theorem witness_capg_requests :
    (blockWith [.issue 0x400000000080]).pending = [.issue 0x400000000080] ∧
    (0x400000000080#48).extractLsb 47 44 = 0x4#4 ∧ (0x400000000080#48).extractLsb 43 40 = 0x0#4 ∧
    (0x400000000080#48).extractLsb 39 8 = 0#32 ∧
    (0x4F0000000080#48).extractLsb 47 44 = 0x4#4 ∧ (0x4F0000000080#48).extractLsb 43 40 ≠ 0x0#4 ∧
    (0x401000000080#48).extractLsb 47 44 = 0x4#4 ∧ (0x401000000080#48).extractLsb 39 8 ≠ 0#32 := by decide

/-- CapabilityCornerCases, at the ends of its ranges: the answers are the rows of sections 2.3 and 2.4. -/
theorem witness_capability_corner_cases :
    answerWord 0x300000000000 = some 0x0300000000000000 ∧ answerWord 0x300000000001 = some 0x0300000000010000 ∧
    answerWord 0x300000000007 = some 0x0300000000010000 ∧ answerWord 0x300000000030 = some 0x0300000000000000 ∧
    answerWord 0x400000000000 = some 0x0400000000000000 ∧ answerWord 0x400000000001 = some 0x0400000000010000 ∧
    answerWord 0x400000000003 = some 0x0400000000010000 ∧ answerWord 0x40000000000C = some 0x0400000000000000 := by
  decide +kernel

/-- ModeBitsWithoutTheirEnableAreIgnored: bytes whose enable is clear and whose mode sub-field is not. -/
theorem witness_mode_bits_without_their_enable :
    0xB0#8 &&& 0x40#8 = 0 ∧ 0xB0#8 &&& ~~~0x30#8 ≠ 0xB0#8 ∧ 0x7C#8 &&& 0x80#8 = 0 ∧
    0x7C#8 &&& ~~~0x0C#8 ≠ 0x7C#8 := by decide

/-- TextRendersTheTokens, CaplListsTheTechnologies, CapgListsTheTechnologies, TextLengthIsBounded: NAME as R131 says; and
responses without tokens, with the warning and without. -/
theorem witness_names :
    State.reset.names = defaultNames ∧ State.reset.names.wellFormed = true ∧ lteNumbers 0x02 = [] ∧
    lteWarn 0x02 = true ∧ gsmNumbers 0x0C = [] ∧ gsmWarn 0x0C = false := by decide +kernel

/-- TextLengthIsBounded: the lengths at the ends of two ranges of R139, and beside them (the rows of sections 2.3
and 2.4). -/
theorem witness_text_lengths :
    (numbersText defaultNames (lteNumbers 0xC8) false).length = 44 ∧
    (numbersText defaultNames (lteNumbers 0xC9) true).length = 74 ∧
    (numbersText defaultNames (gsmNumbers 0xF0) false).length = 60 ∧
    (numbersText defaultNames (gsmNumbers 0xF1) true).length = 90 ∧
    0xC8#8 &&& 0x07#8 = 0 ∧ 0xC9#8 &&& 0x07#8 ≠ 0 ∧ 0xF0#8 &&& 0x03#8 = 0 ∧ 0xF1#8 &&& 0x03#8 ≠ 0 := by decide +kernel

/-- StepRunsTheDecodedCommand: a word pending that decodes, and one of the table. -/
theorem witness_decoded_step :
    (blockWith [.issue 0x3000000000FF, .reset]).pending = .issue 0x3000000000FF :: [.reset] ∧
    decode 0x3000000000FF = .ok (.capl 0xFF) ∧ decodeTableWord 48 0x201300624080 = some (.dec 0x1300624080) :=
  ⟨rfl, rfl, rfl⟩

/-- IllegalWordTakesTheIllegalResponse, StatusSaysWhetherTheWordIsLegal: an illegal word pending. -/
theorem witness_illegal_word_pending :
    (blockWith [.issue 0x500000000000]).pending = [.issue 0x500000000000] ∧ IllegalWord 0x500000000000 := by
  unfold IllegalWord; decide

/-- EveryRequestCompletes: three requests pending, one of them illegal. -/
theorem witness_requests_pending :
    (blockWith [.issue 0x103104103300, .issue 0x000000000000, .issue 0x300000000050]).pending =
      ([0x103104103300, 0x000000000000] ++ [0x300000000050]).map .issue := rfl

/-- ReadOfNoValueFaults, ResetLeavesNoResponse, FaultsAreExactlyForbiddenReads: a forbidden read of each register. -/
theorem witness_forbidden_reads :
    State.reset.rspValid = false ∧ faults (blockWith [.read .response]) = true ∧
    faults (blockWith [.read .rspWord]) = true ∧ faults (blockWith [.read .text]) = true ∧
    faults (blockWith [.read .textLen]) = true := by decide +kernel

/-- ReadReturnsTheRegisters: allowed reads, with RSP_VALID 1 and of RSP_VALID itself. -/
theorem witness_allowed_reads :
    (blockWith [.read .rspValid]).pending = [.read .rspValid] ∧
    ((after (blockWith [.issue 0x300000000040, .read .rspWord])).map fun t => (t.rspValid, t.pending)) =
      some (true, [.read .rspWord]) := by decide +kernel

/-- ResetEventClearsTheResponse, RspValidIsSetByCommandsAndClearedByReset: a reset pending after a command. -/
theorem witness_reset_pending :
    ((after (blockWith [.issue 0x300000000040, .reset])).map fun t => (t.rspValid, t.pending)) =
      some (true, [.reset]) := by decide +kernel

/-- RspValidIsSetByCommandsAndClearedByReset: a step that sets RSP_VALID and one that clears it. -/
theorem witness_rsp_valid_changes :
    ((asked 0x000000000000).map fun t => t.rspValid) = some true ∧
    ((after { blockWith [.reset] with rspValid := true }).map fun t => t.rspValid) = some false := by decide +kernel

/-- ResponseDependsOnTheWordAndNameAlone, RegistersWithoutAValueAreNeverObserved: two states that differ in RSP_WORD and
TEXT_LEN only. -/
theorem witness_states_that_differ_in_dead_registers :
    let s := blockWith [.issue 0x3000000000FF]
    let s' := { s with rspWord := 0xFFFFFFFFFFFFFFFF, textLen := 7 }
    s ≠ s' ∧ s'.pending = s.pending ∧ s'.names = s.names ∧ s.rspValid = false ∧ s'.rspValid = false ∧
    s'.observed = s.observed := by decide +kernel

/-- TextBytesPastTextLenAreZero: each of its cases, with NAME as R131 says. -/
theorem witness_text_cases :
    (blockWith [.issue 0x4000000000F1]).names.wellFormed = true ∧ (0x103104103300#48).extractLsb 47 44 = 0x1#4 ∧
    (0x201300624080#48).extractLsb 47 44 = 0x2#4 ∧ decode 0x3000000000C9 = .ok (.capl 0xC9) ∧
    decode 0x4000000000F1 = .ok (.capg 0xF1) := ⟨by decide +kernel, by decide, by decide, rfl, rfl⟩

/-- InvariantHoldsAtReset, StepKeepsTheInvariant: names that R131 allows, other than the defaults. -/
theorem witness_other_names :
    (⟨List.replicate 32 0x7F#8, [], [0x01#8], txt "EC"⟩ : OpenNames).wellFormed = true := by decide +kernel

/-- StepKeepsTheInvariant: a state that meets the invariant with a response in its registers and a request to come. -/
theorem witness_invariant : ∃ s t, Inv s ∧ s.rspValid = true ∧ step s = .next t := by
  refine ⟨{ blockWith [.issue 0x3000000000FF] with rspValid := true, rspWord := 0x0100001300144080 }, _, ?_, rfl, rfl⟩
  refine ⟨by decide +kernel, fun _ => ?_, by simp [blockWith, State.reset, State.resetWith]⟩
  refine ⟨by decide, by decide, by decide, by decide, by decide, by decide, ?_⟩
  intro i _
  simp [blockWith, response, State.reset, State.resetWith]

/-- RunCompletesExactlyWhenTheHostObeys: scripts that obey and that do not, a reset in each. -/
theorem witness_scripts :
    hostObeys false [.read .rspValid, .issue 0x000000000000, .read .response, .reset, .read .rspValid] = true ∧
    hostObeys false [.read .text] = false ∧ hostObeys true [.read .text, .reset, .read .textLen] = false := by decide

/-- NameNeverChanges: a run of two steps that answers a next state. -/
theorem witness_run : ∃ t, run 2 (blockWith [.issue 0x000000000000, .reset]) = .next t := ⟨_, rfl⟩

/-- ReadsReturnTheLastResponse. -/
theorem witness_reads_after_a_request :
    (blockWith [.issue 0x103104103300, .read .rspWord, .read .response]).pending =
      .issue 0x103104103300 :: [ReadTarget.rspWord, ReadTarget.response].map .read := rfl

/-- AnswersComeInTheOrderOfIssue. -/
theorem witness_ask_script :
    (blockWith [.issue 0x103104103300, .read .response, .issue 0x5, .read .response]).pending =
      askScript [0x103104103300, 0x5] := rfl

/-- InstancesDoNotInteract, InstancesStartAtReset: two instances, and interactions with each. -/
theorem witness_platform :
    let p := platformReset [defaultNames, defaultNames]
    p[1]? = some State.reset ∧ (∃ q, platformInteract 0 (.issue 0x300000000040) p = .next q) ∧
    ∃ q', platformInteract 1 .reset p = .next q' := ⟨rfl, ⟨_, rfl⟩, ⟨_, rfl⟩⟩

/-- EncRequestFromStrings: accepted strings (empty, and longer than 15, with a bad character past the third), and a
rejected one. -/
theorem witness_strings :
    (∀ c ∈ (txt "").take 3 ++ (txt "123-567890123456789").take 3, symOf .refuse c ≠ none) ∧
    ∃ c ∈ (txt "31G").take 3 ++ (txt "1").take 3, symOf .fold c = none := by decide +kernel

/-- PairsPrintTheAtLine, EncodedPairsDecodeBack: pairs that are converted, an empty code among them. -/
theorem witness_pairs :
    (∀ p ∈ [(txt "310", txt "410"), (txt "", txt "5")], startsDash p.1 = false ∧ startsDash p.2 = false ∧
      encRequest host.lowercase p.1 p.2 ≠ none) ∧
    ∀ p ∈ [(txt "310", txt "410"), (txt "", txt "5")], DigitText p.1 ∧ p.1.length ≤ 3 ∧ DigitText p.2 ∧
      p.2.length ≤ 3 := by unfold DigitText; decide +kernel

/-- OddPositionalsAreAnError: one argument, and three. -/
theorem witness_odd_positionals :
    (∀ a ∈ [txt "310"], startsDash a = false) ∧ [txt "310"].length % 2 = 1 ∧
    (∀ a ∈ [txt "310", txt "410", txt "1"], startsDash a = false) := by decide +kernel

/-- BadPayloadLengthIsAnError: an empty payload after a comma, and payloads of 9 and 11 characters. -/
theorem witness_bad_payloads :
    (txt "").length = 0 ∧ startsDash (txt "AT+CRSM=214,28512,0,0,5" ++ txt "," ++ txt "") = false ∧
    chr ',' ∉ txt "130062408" ∧ (txt "130062408").length % 10 ≠ 0 ∧ startsDash (txt "130062408") = false ∧
    (txt "13006240801").length % 10 ≠ 0 := by decide +kernel

/-- FlagErrorsEndTheInvocation: a table flag before a value and before a dash token, an unknown flag, and the stream that
is not ERROR_STREAM. -/
theorem witness_flag_errors :
    startsDash (txt "-h") = true ∧ startsDash (txt "-") = true ∧ txt "-" ≠ txt "-p" ∧ txt "-" ≠ txt "--plmn" ∧
    txt "-" ≠ txt "-h" ∧ txt "-" ≠ txt "--help" ∧ Stream.stdout ≠ host.errorStream := by decide +kernel

/-- HostErrorsNeverReachTheBlock: an invocation that prints no result. -/
theorem witness_no_result : ∀ out, (hostMain host [txt "-x"] State.reset).1 ≠ .printed out := by
  intro out h
  have e : (hostMain host [txt "-x"] State.reset).1 = .failed .unknownFlag (txt "[ERROR] flag") := by decide +kernel
  rw [e] at h
  cases h

/-- TablePrintsOneLineForEachRecord: no preamble, and a preamble that ends in a comma. -/
theorem witness_preambles :
    startsDash [] = false ∧ (txt "AT+CRSM=214,28512,0,0,5,").getLast? = some (chr ',') ∧
    startsDash (txt "AT+CRSM=214,28512,0,0,5,") = false ∧ recordText 0x82F9884080 = txt "82F9884080" := by decide +kernel

/-- StandaloneDecodeReadsSixCharacters: a string of 5, of 6, and of more characters. -/
theorem witness_standalone_strings :
    (txt "13006").length < 6 ∧ (txt "130062").take 6 = (txt "1300624080FFFFFF").take 6 ∧
    (txt "1300624080").take 6 = (symsText (#v[1, 3, 0, 0, 6, 2, 4, 0, 8, 0] : Vector Sym 10).toList).take 6 := by
  decide +kernel

/-- DisassemblyKeepsTheCommand: a word that is no ENC request. -/
theorem witness_word_that_is_not_enc : ∀ mcc mnc, decode 0x201300624080 ≠ .ok (.enc mcc mnc) := by
  intro mcc mnc h
  have e : decode 0x201300624080 = .ok (.dec 0x1300624080) := rfl
  rw [e] at h
  cases h

end Sys2Proof.Tests
end

section
/-! SUPPORT. What the decoder tells about a request word: whether it is illegal, and its OP. -/

namespace Sys2Proof.Machine

/-- The OPs of R67 (a) are those of no row of the opcode map (R61). -/
theorem reservedOp_iff (op : BitVec 4) :
    (op ≠ 0x1#4 ∧ op ≠ 0x2#4 ∧ op ≠ 0x3#4 ∧ op ≠ 0x4#4) ↔ (op = 0x0#4 ∨ 0x5#4 ≤ op) := by
  revert op; decide

/-- The cases of R67 by the fields of the word (R60, R62, R64). -/
theorem illegalWord_iff (w : Request) :
    IllegalWord w ↔ (reqOp w = 0x0#4 ∨ 0x5#4 ≤ reqOp w) ∨ reqRsvd w ≠ 0#4 ∨
      (reqOp w = 0x1#4 ∧ reqRsvdEnc w ≠ 0#8) ∨ ((reqOp w = 0x3#4 ∨ reqOp w = 0x4#4) ∧ reqRsvdCap w ≠ 0#32) :=
  Iff.rfl

/-- The decoder rejects exactly the words that R67 calls illegal. -/
theorem decode_error_iff (w : Request) : (∃ e, decode w = .error e) ↔ IllegalWord w := by
  rw [illegalWord_iff, ← reservedOp_iff]
  simp only [decode]
  split_ifs with hr hv h1 he h2 hc h3
  · exact iff_of_true ⟨_, rfl⟩ (.inl hr)
  · exact iff_of_true ⟨_, rfl⟩ (.inr (.inl hv))
  · exact iff_of_true ⟨_, rfl⟩ (.inr (.inr (.inl ⟨h1, he⟩)))
  · exact iff_of_false (by simp) (by simp [h1, he, hv])
  · exact iff_of_false (by simp) (by simp [h2, hv])
  · have hcap : reqOp w = 0x3#4 ∨ reqOp w = 0x4#4 := by tauto
    exact iff_of_true ⟨_, rfl⟩ (.inr (.inr (.inr ⟨hcap, hc⟩)))
  · exact iff_of_false (by simp) (by simp [h3, hc, hv])
  · exact iff_of_false (by simp) (by tauto)

/-- A word that decodes to a command is not illegal (R67). -/
theorem not_illegalWord_of_decode_ok {w : Request} {i : Instr} (h : decode w = .ok i) : ¬ IllegalWord w := by
  rw [← decode_error_iff]
  rintro ⟨e, he⟩
  rw [h] at he
  cases he

/-- The OP of a word that decodes to a command is the command's row of the opcode map (R61). -/
theorem reqOp_of_decode_ok {w : Request} {i : Instr} (h : decode w = .ok i) : reqOp w = opcode i := by
  simp only [decode] at h
  split_ifs at h with hr hv h1 he h2 hc h3 <;> cases h
  · exact h1
  · exact h2
  · exact h3
  · exact not_not.mp fun h4 => hr ⟨h1, h2, h3, h4⟩

end Sys2Proof.Machine
end

section
/-! SUPPORT. What every response a command writes satisfies (R25 to R28). -/

namespace Sys2Proof.Machine

/-- The text a command writes (R13, R129 to R133): none for ENC and DEC. -/
def commandText (names : OpenNames) : Instr → Text
  | .enc _ _ => []
  | .dec _ => []
  | .capl b => render names (lteTokens b) (lteWarn b)
  | .capg b => render names (gsmTokens b) (gsmWarn b)

/-- The result a command writes into DATA (R85, R105, R134). -/
def commandData : Instr → BitVec 40
  | .enc mcc mnc => encodeRecord mcc mnc
  | .dec r => decodeData r
  | .capl b => capabilityData (lteTokens b) (lteWarn b)
  | .capg b => capabilityData (gsmTokens b) (gsmWarn b)

/-- Every command's response says OK, echoes the command's OP, and holds its result and its text (R25 to R28). -/
theorem commandResponse_eq (names : OpenNames) (i : Instr) :
    commandResponse names i = mkResponse .ok (opcode i) (commandData i) (commandText names i) := by
  cases i <;> rfl

/-- The text of every command fits the buffer (R139). -/
theorem commandText_length_le {names : OpenNames} (h : names.wellFormed = true) (i : Instr) :
    (commandText names i).length ≤ textMax := by
  cases i with
  | enc mcc mnc => exact Nat.zero_le _
  | dec r => exact Nat.zero_le _
  | capl b => exact render_length_le names h _ _ ((lteTokens_length b).trans (by decide))
  | capg b => exact render_length_le names h _ _ (gsmTokens_length b)

/-- TEXT_LEN of a text that fits the buffer is its length: it is not cut to 8 bits (R13). -/
theorem textLen_toNat {t : Text} (h : t.length ≤ textMax) : (BitVec.ofNat 8 t.length).toNat = t.length := by
  rw [BitVec.toNat_ofNat, Nat.mod_eq_of_lt (by simp only [textMax] at h; omega)]

/-- A response packed with a text that fits the buffer is well formed when an OK one echoes an OP of the command set
and an ILLEGAL one holds no result and no text. -/
theorem responseWf_mkResponse {st : Status} {op : BitVec 4} {d : BitVec 40} {t : Text} (ht : t.length ≤ textMax)
    (hok : st = .ok → op = 0x1 ∨ op = 0x2 ∨ op = 0x3 ∨ op = 0x4) (hill : st = .illegal → d = 0 ∧ t = []) :
    ResponseWf (mkResponse st op d t) := by
  have hzero (i : Fin textMax) (hi : t.length ≤ i.val) : (textBuffer t)[i.val] = 0 := textBuffer_zero t i i.isLt hi
  simp only [ResponseWf, mkResponse_word, mkResponse_text, mkResponse_textLen, textLen_toNat ht, rspStatus_packRsp,
    rspRsvd0_packRsp, rspOp_packRsp, rspRsvd1_packRsp, rspData_packRsp]
  cases st with
  | ok => exact ⟨.inl rfl, rfl, rfl, fun _ => hok rfl, fun h => absurd h (by decide), ht, hzero⟩
  | illegal =>
    obtain ⟨rfl, rfl⟩ := hill rfl
    exact ⟨.inr rfl, rfl, rfl, fun h => absurd h (by decide), fun _ => ⟨rfl, rfl⟩, ht, hzero⟩

/-- The response to any request word is well formed, for a NAME that R131 allows (R25 to R28, R61, R152). -/
theorem responseWf_wordResponse {names : OpenNames} (h : names.wellFormed = true) (w : Request) :
    ResponseWf (wordResponse names w) := by
  cases hd : decode w with
  | ok i =>
    rw [wordResponse_ok hd, commandResponse_eq]
    exact responseWf_mkResponse (commandText_length_le h i) (fun _ => by cases i <;> simp [opcode]) (by simp)
  | error e =>
    rw [wordResponse_error hd]
    exact responseWf_mkResponse (Nat.zero_le _) (by simp) (fun _ => ⟨rfl, rfl⟩)

/-- OP echoes the word's OP field, whatever it is (R27). -/
theorem rspOp_wordResponse (names : OpenNames) (w : Request) : rspOp (wordResponse names w).word = reqOp w := by
  cases hd : decode w with
  | ok i => rw [wordResponse_ok hd, commandResponse_eq, mkResponse_word, rspOp_packRsp, reqOp_of_decode_ok hd]
  | error e => rw [wordResponse_error hd, illegalResponse, mkResponse_word, rspOp_packRsp]

/-- STATUS is OK after a legal word (R26). -/
theorem rspStatus_wordResponse_of_legal (names : OpenNames) {w : Request} (h : ¬ IllegalWord w) :
    rspStatus (wordResponse names w).word = statusBits .ok := by
  cases hd : decode w with
  | ok i => rw [wordResponse_ok hd, commandResponse_eq, mkResponse_word, rspStatus_packRsp]
  | error e => exact absurd ((decode_error_iff w).mp ⟨e, hd⟩) h

/-- An illegal word gets the ILLEGAL response (R152). -/
theorem wordResponse_of_illegal (names : OpenNames) {w : Request} (h : IllegalWord w) :
    wordResponse names w = illegalResponse w := by
  obtain ⟨e, hd⟩ := (decode_error_iff w).mpr h
  exact wordResponse_error hd

/-- The response text of a command is the text it writes, for a NAME that R131 allows (R28). -/
theorem responseText_commandResponse {names : OpenNames} (h : names.wellFormed = true) (i : Instr) :
    responseText (commandResponse names i) = commandText names i := by
  rw [commandResponse_eq, responseText_mkResponse _ _ _ _ (commandText_length_le h i)]

/-- TEXT_LEN is 0 after an ENC request, a DEC request and an illegal one (R28). -/
theorem textLen_wordResponse_eq_zero (names : OpenNames) {w : Request}
    (h : reqOp w = 0x1#4 ∨ reqOp w = 0x2#4 ∨ IllegalWord w) : (wordResponse names w).textLen = 0 := by
  cases hd : decode w with
  | error e => rw [wordResponse_error hd]; rfl
  | ok i =>
    have hlegal := not_illegalWord_of_decode_ok hd
    rw [reqOp_of_decode_ok hd] at h
    rw [wordResponse_ok hd]
    cases i with
    | enc mcc mnc => rfl
    | dec r => rfl
    | capl b => simp [opcode, hlegal] at h
    | capg b => simp [opcode, hlegal] at h

end Sys2Proof.Machine
end

section
/-! SUPPORT. The tokens of a capability byte are those that the masks of R121 to R126 give. -/

namespace Sys2Proof.Machine

/-- NAME by a token's number is NAME of the token (R130, R131). -/
theorem nameByNumber_tokenId (names : OpenNames) (t : Token) : nameByNumber names (tokenId t) = nameOf names t := by
  cases t <;> rfl

/-- The text by token numbers is the text of the tokens (R129, R132, R133). -/
theorem numbersText_map_tokenId (names : OpenNames) (toks : List Token) (w : Bool) :
    numbersText names (toks.map tokenId) w = render names toks w := by
  have hnames : nameByNumber names ∘ tokenId = nameOf names := funext (nameByNumber_tokenId names)
  rw [numbersText, List.map_map, hnames]
  rfl

/-- The LTE/UTRAN byte: the masks give the numbers of its tokens, checked at each of the 256 bytes (R121, R122). -/
theorem lteNumbers_eq (b : Byte) : lteNumbers b = (lteTokens b).map tokenId := by
  revert b; decide

/-- The GSM/CDMA byte: the masks give the numbers of its tokens, checked at each of the 256 bytes (R124, R125). -/
theorem gsmNumbers_eq (b : Byte) : gsmNumbers b = (gsmTokens b).map tokenId := by
  revert b; decide

end Sys2Proof.Machine
end

section
/-! SUPPORT. What a step does for each kind of interaction, and what it leaves unchanged. -/

namespace Sys2Proof.Machine

/-- A read returns the registers it asks for exactly when it is allowed (R31, R32). -/
theorem readResult_eq (what : ReadTarget) (s : State) :
    readResult what s = if readAllowed s.rspValid what then some (readOf s what) else none := by
  cases what <;> rfl

/-- A read is forbidden exactly when RSP_VALID is 0 and it reads another register (R32, R165). -/
theorem readAllowed_eq_false_iff (valid : Bool) (what : ReadTarget) :
    readAllowed valid what = false ↔ valid = false ∧ what ≠ .rspValid := by
  cases what <;> simp [readAllowed]

/-- A read records a whole response only when RSP_VALID is 1, and it is the one in the registers (R31, R32). -/
theorem eq_response_of_readResult {what : ReadTarget} {s : State} {r : Response}
    (h : readResult what s = some (.response r)) : s.rspValid = true ∧ r = response s := by
  cases what
  case response =>
    obtain ⟨hvalid, hr⟩ : s.rspValid = true ∧ response s = r := by simpa [readResult] using h
    exact ⟨hvalid, hr.symm⟩
  all_goals simp [readResult] at h

/-- A step that issues a request completes it: the response is a function of the word and NAME (R30). -/
theorem step_issue {s : State} {w : Request} {rest : List HostEvent} (h : s.pending = .issue w :: rest) :
    step s = .next (complete (wordResponse s.names w) { s with pending := rest }) := by
  rw [step_cons h]
  exact issueRequest_eq w _

/-- A step that makes an allowed read records the registers read and changes none (R31, R48). -/
theorem step_read_allowed {s : State} {what : ReadTarget} {rest : List HostEvent} (h : s.pending = .read what :: rest)
    (ha : readAllowed s.rspValid what = true) :
    step s = .next { s with pending := rest, observed := s.observed ++ [readOf s what] } := by
  rw [step_cons h, interact, hostRead, readResult_setPending, readResult_eq, if_pos ha]

/-- A step that makes a forbidden read faults (R32). -/
theorem step_read_forbidden {s : State} {what : ReadTarget} {rest : List HostEvent}
    (h : s.pending = .read what :: rest) (ha : readAllowed s.rspValid what = false) :
    step s = .fault .readBeforeResponse := by
  rw [step_cons h, interact, hostRead, readResult_setPending, readResult_eq, ha]
  rfl

/-- Everything a step can do: it answers a next state, or it faults at a forbidden read. -/
theorem step_next_or_forbidden (s : State) :
    StepsOn s ∨ ∃ what rest, s.pending = .read what :: rest ∧ readAllowed s.rspValid what = false := by
  cases hp : s.pending with
  | nil => exact .inl ⟨s, step_idle hp⟩
  | cons e rest =>
    rw [StepsOn, step_cons hp]
    rcases interact_cases e { s with pending := rest } with
      ⟨w, -, hi⟩ | ⟨-, hi⟩ | ⟨what, o, -, -, -, hi⟩ | ⟨what, rfl, ha, -⟩
    · exact .inl ⟨_, hi⟩
    · exact .inl ⟨_, hi⟩
    · exact .inl ⟨_, hi⟩
    · exact .inr ⟨what, rest, rfl, ha⟩

/-- No step is refused: every command has a meaning, and an illegal word has a response (R152, R197). -/
theorem step_ne_refused (s : State) (r : Refusal) : step s ≠ .refused r := by
  rcases step_next_or_forbidden s with ⟨t, ht⟩ | ⟨what, rest, hp, ha⟩
  · simp [ht]
  · simp [step_read_forbidden hp ha]

/-- A run stops at the first fault. -/
theorem run_succ_fault {s : State} {f : Fault} (n : Nat) (h : step s = .fault f) : run (n + 1) s = .fault f := by
  simp [run, h]

/-- What a step does to RSP_VALID: it leaves it, or it issues a request and sets it, or it is a reset and clears it
(R29). -/
theorem step_rspValid {s t : State} (h : step s = .next t) :
    t.rspValid = s.rspValid ∨ (t.rspValid = true ∧ ∃ w rest, s.pending = .issue w :: rest) ∨
      (t.rspValid = false ∧ ∃ rest, s.pending = .reset :: rest) := by
  rcases step_cases h with ⟨-, rfl⟩ | ⟨w, rest, hp, rfl⟩ | ⟨rest, hp, rfl⟩ | ⟨what, o, rest, -, -, rfl⟩
  · exact .inl rfl
  · exact .inr (.inl ⟨rfl, w, rest, hp⟩)
  · exact .inr (.inr ⟨rfl, rest, hp⟩)
  · exact .inl rfl

/-- No step writes NAME (R34). -/
theorem step_names {s t : State} (h : step s = .next t) : t.names = s.names := by
  rcases step_cases h with ⟨-, rfl⟩ | ⟨w, rest, -, rfl⟩ | ⟨rest, -, rfl⟩ | ⟨what, o, rest, -, -, rfl⟩ <;> rfl

end Sys2Proof.Machine
end

section
/-! SUPPORT. The invariant is kept by each operation on the state. -/

namespace Sys2Proof.Machine

/-- The invariant does not speak of the interactions to come. -/
theorem inv_setPending {s : State} (h : Inv s) (rest : List HostEvent) : Inv { s with pending := rest } := h

/-- A completion with a well-formed response keeps the invariant. -/
theorem inv_complete {s : State} (h : Inv s) {r : Response} (hr : ResponseWf r) : Inv (complete r s) := by
  obtain ⟨hnames, -, hobserved⟩ := h
  exact ⟨hnames, fun _ => hr, hobserved⟩

/-- The reset event keeps the invariant: no response is left in the registers. -/
theorem inv_resetEvent {s : State} (h : Inv s) : Inv (resetEvent s) := by
  obtain ⟨hnames, -, hobserved⟩ := h
  exact ⟨hnames, fun hvalid => absurd hvalid (by simp), hobserved⟩

/-- A host read keeps the invariant: a whole response that it records is the valid one in the registers. -/
theorem inv_recordRead {s : State} (h : Inv s) {what : ReadTarget} {o : Observation}
    (ho : readResult what s = some o) : Inv { s with observed := s.observed ++ [o] } := by
  obtain ⟨hnames, hresponse, hobserved⟩ := h
  refine ⟨hnames, hresponse, fun r hr => ?_⟩
  rcases List.mem_append.mp hr with hold | hnew
  · exact hobserved r hold
  · rw [List.mem_singleton] at hnew
    obtain ⟨hvalid, rfl⟩ := eq_response_of_readResult (hnew ▸ ho)
    exact hresponse hvalid

/-- The reset state of a NAME that R131 allows meets the invariant (R33). -/
theorem inv_resetWith {names : OpenNames} (h : names.wellFormed = true) : Inv (State.resetWith names) :=
  ⟨h, fun hvalid => absurd hvalid (by simp [State.resetWith]), fun _ hr => absurd hr (by simp [State.resetWith])⟩

end Sys2Proof.Machine
end

section
/-! SUPPORT. The simulation behind O41: states that agree on all but the registers without a value run alike. -/

namespace Sys2Proof.Machine

/-- Two states agree on all that can be observed: on every field but the response registers, and on those too while
RSP_VALID is 1 (R32). -/
structure AgreeOnLive (s s' : State) : Prop where
  names : s'.names = s.names
  pending : s'.pending = s.pending
  observed : s'.observed = s.observed
  rspValid : s'.rspValid = s.rspValid
  response : s.rspValid = true → response s' = response s

/-- Two outcomes agree: next states that agree, or the same fault or refusal. -/
def OutcomesAgree : Result → Result → Prop
  | .next t, .next t' => AgreeOnLive t t'
  | .fault f, .fault f' => f' = f
  | .refused r, .refused r' => r' = r
  | _, _ => False

theorem OutcomesAgree.of_next {t : State} {o : Result} (h : OutcomesAgree (.next t) o) :
    ∃ t', o = .next t' ∧ AgreeOnLive t t' := by
  cases o with
  | next t' => exact ⟨t', rfl, h⟩
  | fault f => exact h.elim
  | refused r => exact h.elim

theorem OutcomesAgree.of_fault {f : Fault} {o : Result} (h : OutcomesAgree (.fault f) o) : o = .fault f := by
  cases o with
  | next t => exact h.elim
  | fault f' => exact congrArg _ h
  | refused r => exact h.elim

/-- Reads of two such states return the same, or fault both. -/
theorem readResult_agree {s s' : State} (h : AgreeOnLive s s') (what : ReadTarget) :
    readResult what s' = readResult what s := by
  cases hv : s.rspValid with
  | false => cases what <;> simp [readResult, hv, h.rspValid]
  | true =>
    have hresponse := h.response hv
    obtain ⟨hword, htext, hlen⟩ := Response.mk.inj hresponse
    cases what <;> simp [readResult, hv, h.rspValid, hresponse, hword, htext, hlen]

/-- One interaction answers alike on two such states. -/
theorem interact_agree {s s' : State} (h : AgreeOnLive s s') (e : HostEvent) :
    OutcomesAgree (interact e s) (interact e s') := by
  cases e with
  | issue w =>
    rw [interact, interact, issueRequest_eq, issueRequest_eq, h.names]
    exact ⟨h.names, h.pending, h.observed, rfl, fun _ => rfl⟩
  | reset => exact ⟨h.names, h.pending, h.observed, rfl, fun hv => absurd hv (by simp)⟩
  | read what =>
    rw [interact, interact, hostRead, hostRead, readResult_agree h what]
    cases readResult what s with
    | none => rfl
    | some o => exact ⟨h.names, h.pending, congrArg (· ++ [o]) h.observed, h.rspValid, h.response⟩

/-- One step answers alike on two such states. -/
theorem step_agree {s s' : State} (h : AgreeOnLive s s') : OutcomesAgree (step s) (step s') := by
  cases hp : s.pending with
  | nil =>
    rw [step_idle hp, step_idle (h.pending.trans hp)]
    exact h
  | cons e rest =>
    rw [step_cons hp, step_cons (h.pending.trans hp)]
    have hrest : AgreeOnLive { s with pending := rest } { s' with pending := rest } :=
      ⟨h.names, rfl, h.observed, h.rspValid, h.response⟩
    exact interact_agree hrest e

/-- A run of any length ends alike on two such states. -/
theorem run_agree {s s' : State} (h : AgreeOnLive s s') (n : Nat) : OutcomesAgree (run n s) (run n s') := by
  induction n generalizing s s' with
  | zero => exact h
  | succ n ih =>
    have hstep := step_agree h
    cases hs : step s with
    | next t =>
      rw [hs] at hstep
      obtain ⟨t', hs', ht⟩ := hstep.of_next
      rw [run_succ_next n hs, run_succ_next n hs']
      exact ih ht
    | fault f =>
      rw [hs] at hstep
      rw [run_succ_fault n hs, run_succ_fault n hstep.of_fault]
      rfl
    | refused r => exact absurd hs (step_ne_refused s r)

end Sys2Proof.Machine
end

section
/-! SUPPORT. What an interaction with one block of a platform can do (R50, R160). -/

namespace Sys2Proof.Machine

/-- An interaction with a block that stands on the platform replaces that block by its next state. -/
theorem platformInteract_of_interact {k : Nat} {e : HostEvent} {p : Platform} {s t : State} (hs : p[k]? = some s)
    (ht : interact e s = .next t) : platformInteract k e p = .next (p.set k t) := by
  simp [platformInteract, hs, ht]

/-- An interaction with a block that is not there changes nothing (notes/assumptions/14.md). -/
theorem platformInteract_of_none {k : Nat} {e : HostEvent} {p : Platform} (h : p[k]? = none) :
    platformInteract k e p = .next p := by
  simp [platformInteract, h]

/-- Everything an interaction that answers a next platform can have done. -/
theorem platformInteract_cases {k : Nat} {e : HostEvent} {p q : Platform} (h : platformInteract k e p = .next q) :
    (p[k]? = none ∧ q = p) ∨ ∃ s t, p[k]? = some s ∧ interact e s = .next t ∧ q = p.set k t := by
  cases hs : p[k]? with
  | none =>
    rw [platformInteract_of_none hs] at h
    exact .inl ⟨rfl, (Host.Outcome.next.inj h).symm⟩
  | some s =>
    cases ht : interact e s with
    | next t =>
      rw [platformInteract_of_interact hs ht] at h
      exact .inr ⟨s, t, rfl, ht, (Host.Outcome.next.inj h).symm⟩
    | fault f => simp [platformInteract, hs, ht] at h
    | refused r => simp [platformInteract, hs, ht] at h

/-- An interaction with block `k` leaves the number of blocks, and every other block, as it was (R35, R50). -/
theorem platformInteract_frame {k : Nat} {e : HostEvent} {p q : Platform} (h : platformInteract k e p = .next q) :
    q.length = p.length ∧ ∀ j, j ≠ k → q[j]? = p[j]? := by
  rcases platformInteract_cases h with ⟨-, rfl⟩ | ⟨s, t, -, -, rfl⟩
  · exact ⟨rfl, fun _ _ => rfl⟩
  · exact ⟨List.length_set, fun j hj => List.getElem?_set_ne hj.symm⟩

end Sys2Proof.Machine
end

section
/-! The statements of 10_state.md. -/

namespace Sys2Proof.Machine

/-- Settles O39: by what a step can do, each operation keeps the invariant. -/
theorem stepKeepsTheInvariant : Obligations.StepKeepsTheInvariant := by
  intro s t hinv h
  rcases step_cases h with ⟨-, rfl⟩ | ⟨w, rest, -, rfl⟩ | ⟨rest, -, rfl⟩ | ⟨what, o, rest, -, ho, rfl⟩
  · exact hinv
  · exact inv_complete (inv_setPending hinv rest) (responseWf_wordResponse hinv.1 w)
  · exact inv_resetEvent (inv_setPending hinv rest)
  · exact inv_recordRead (inv_setPending hinv rest) ho

/-- Settles O41: the two runs are related by `AgreeOnLive`, which every step keeps. -/
theorem registersWithoutAValueAreNeverObserved : Obligations.RegistersWithoutAValueAreNeverObserved := by
  intro n s s' hs hs' hnames hpending hobserved
  have hagree : AgreeOnLive s s' :=
    ⟨hnames, hpending, hobserved, hs'.trans hs.symm, fun hv => absurd (hs.symm.trans hv) (by decide)⟩
  have hrun := run_agree hagree n
  refine ⟨fun t ht => ?_, fun f hf => ?_⟩
  · rw [ht] at hrun
    obtain ⟨t', ht', hend⟩ := hrun.of_next
    exact ⟨t', ht', hend.observed, hend.pending, hend.rspValid, hend.response⟩
  · rw [hf] at hrun
    exact hrun.of_fault

/-- Settles O28, from the STATUS and the OP echo of the response to a word. -/
theorem statusSaysWhetherTheWordIsLegal : Obligations.StatusSaysWhetherTheWordIsLegal := by
  intro w rest s hp
  refine ⟨_, step_issue hp, rspStatus_wordResponse_of_legal s.names, fun hill => ?_, rspOp_wordResponse s.names w⟩
  rw [complete_rspWord, wordResponse_of_illegal s.names hill]
  exact rspStatus_packRsp _ _ _

/-- Settles O32: a step that is no forbidden read answers a next state. -/
theorem faultsAreExactlyForbiddenReads : Obligations.FaultsAreExactlyForbiddenReads := by
  intro s
  refine ⟨?_, step_ne_refused s⟩
  rcases step_next_or_forbidden s with ⟨t, ht⟩ | ⟨what, rest, hp, ha⟩
  · refine iff_of_false (by simp [ht]) ?_
    rintro ⟨hv, what, rest, hp, hwhat⟩
    rw [step_read_forbidden hp ((readAllowed_eq_false_iff _ _).mpr ⟨hv, hwhat⟩)] at ht
    cases ht
  · have hfault := step_read_forbidden hp ha
    obtain ⟨hv, hwhat⟩ := (readAllowed_eq_false_iff _ _).mp ha
    exact iff_of_true ⟨_, hfault⟩ ⟨hv, what, rest, hp, hwhat⟩

/-- Settles O35, by what a step can do. -/
theorem rspValidIsSetByCommandsAndClearedByReset : Obligations.RspValidIsSetByCommandsAndClearedByReset := by
  refine ⟨rfl, fun s => ⟨fun w rest hp => ⟨_, step_issue hp, rfl⟩, fun t h hs ht => ?_, fun t h hs ht => ?_⟩⟩
  · rcases step_rspValid h with hsame | ⟨hset, -⟩ | ⟨-, hreset⟩
    · simp [hs, ht] at hsame
    · simp [ht] at hset
    · exact hreset
  · rcases step_rspValid h with hsame | ⟨-, hissue⟩ | ⟨hclear, -⟩
    · simp [hs, ht] at hsame
    · exact hissue
    · simp [ht] at hclear

/-- Settles O36: the response is `wordResponse` of the word and NAME in both states. -/
theorem responseDependsOnTheWordAndNameAlone : Obligations.ResponseDependsOnTheWordAndNameAlone := by
  intro w rest rest' s s' hp hp' hnames
  refine ⟨_, _, step_issue hp, step_issue hp', ?_⟩
  simp [hnames]

/-- Settles O37, from the well-formedness of the response and the texts of the commands. -/
theorem textBytesPastTextLenAreZero : Obligations.TextBytesPastTextLenAreZero := by
  intro w rest s hp hnames
  obtain ⟨-, -, -, -, -, hlen, hzero⟩ := responseWf_wordResponse hnames w
  refine ⟨_, step_issue hp, hlen, hzero, textLen_wordResponse_eq_zero s.names, fun b hb => ?_, fun b hb => ?_⟩
  · rw [response_complete, wordResponse_ok hb, responseText_commandResponse hnames, lteNumbers_eq,
      numbersText_map_tokenId]
    rfl
  · rw [response_complete, wordResponse_ok hb, responseText_commandResponse hnames, gsmNumbers_eq,
      numbersText_map_tokenId]
    rfl

/-- Settles O42, by induction over the run. -/
theorem nameNeverChanges : Obligations.NameNeverChanges := by
  intro n s t h
  exact run_induction (P := fun u => u.names = s.names) (fun _ _ hu hstep => (step_names hstep).trans hu) h rfl

/-- Settles O45: each interaction sees and replaces its own block only, so the two can be made in either order. -/
theorem instancesDoNotInteract : Obligations.InstancesDoNotInteract := by
  refine ⟨fun k e p q => platformInteract_frame, fun j k e e' p q q' hjk hq hq' => ?_⟩
  have hk : q[k]? = p[k]? := (platformInteract_frame hq).2 k hjk.symm
  have hj : q'[j]? = p[j]? := (platformInteract_frame hq').2 j hjk
  rcases platformInteract_cases hq with ⟨hpj, rfl⟩ | ⟨s, t, hpj, ht, rfl⟩
  · exact ⟨q', hq', platformInteract_of_none (hj.trans hpj)⟩
  · have hqj := platformInteract_of_interact (hj.trans hpj) ht
    rcases platformInteract_cases hq' with ⟨hpk, rfl⟩ | ⟨s', t', hpk, ht', rfl⟩
    · exact ⟨_, platformInteract_of_none (hk.trans hpk), hqj⟩
    · refine ⟨_, platformInteract_of_interact (hk.trans hpk) ht', ?_⟩
      rw [hqj, List.set_comm _ _ hjk]

/-- Settles O30: a read of another register while RSP_VALID is 0 is forbidden. -/
theorem readOfNoValueFaults : Obligations.ReadOfNoValueFaults := by
  intro s what rest hp hv hwhat
  exact step_read_forbidden hp ((readAllowed_eq_false_iff _ _).mpr ⟨hv, hwhat⟩)

/-- Settles O31: a read that is not forbidden is allowed. -/
theorem readReturnsTheRegisters : Obligations.ReadReturnsTheRegisters := by
  intro s what rest hp hallowed
  refine step_read_allowed hp (Bool.of_not_eq_false fun hforbidden => ?_)
  obtain ⟨hv, hwhat⟩ := (readAllowed_eq_false_iff _ _).mp hforbidden
  simp [hv, hwhat] at hallowed

/-- Settles O38: the default entries are names that R131 allows. -/
theorem invariantHoldsAtReset : Obligations.InvariantHoldsAtReset :=
  ⟨inv_resetWith (by decide +kernel), fun _ => inv_resetWith⟩

end Sys2Proof.Machine
end

section
/-! SUPPORT. What a run of reads, and of requests each with a read after it, does (R48, R49). -/

namespace Sys2Proof.Machine

/-- A read is allowed while RSP_VALID is 1 (R31). -/
@[simp] theorem readAllowed_true (what : ReadTarget) : readAllowed true what = true := by
  cases what <;> rfl

/-- What a read returns does not depend on the model's interface fields. -/
@[simp] theorem readOf_setInterface (s : State) (p : List HostEvent) (o : List Observation) :
    readOf { s with pending := p, observed := o } = readOf s := by
  funext what
  cases what <;> rfl

/-- While RSP_VALID is 1 a run of reads records the registers once for each read, and changes none (R31, R48). -/
theorem run_reads {s : State} (hv : s.rspValid = true) {whats : List ReadTarget} {rest : List HostEvent}
    (h : s.pending = whats.map .read ++ rest) :
    run whats.length s = .next { s with pending := rest, observed := s.observed ++ whats.map (readOf s) } := by
  induction whats generalizing s with
  | nil =>
    obtain rfl : s.pending = rest := h
    simp
  | cons what whats ih =>
    have hread := step_read_allowed (rest := whats.map .read ++ rest) h (by rw [hv, readAllowed_true])
    have hrest := ih (s := { s with
      pending := whats.map .read ++ rest, observed := s.observed ++ [readOf s what] }) hv rfl
    rw [List.length_cons, run_succ_next _ hread, hrest]
    simp

/-- A request and a read of its response: the response of the word is in the registers and is recorded (R30, R31). -/
theorem run_ask {s : State} {w : Request} {rest : List HostEvent}
    (h : s.pending = .issue w :: .read .response :: rest) :
    run 2 s = .next (complete (wordResponse s.names w)
      { s with pending := rest, observed := s.observed ++ [.response (wordResponse s.names w)] }) := by
  rw [run_succ_next 1 (step_issue h), run_succ_next 0 (step_read_allowed rfl rfl), run_zero]
  rfl

@[simp] theorem askScript_nil : askScript [] = [] := rfl

@[simp] theorem askScript_cons (w : Request) (ws : List Request) :
    askScript (w :: ws) = .issue w :: .read .response :: askScript ws := rfl

/-- A run of requests, each with a read after it, records the response of each word, in the order of issue; other
interactions may be pending behind them (R49, R193). -/
theorem run_askScript {s : State} {ws : List Request} {rest : List HostEvent}
    (h : s.pending = askScript ws ++ rest) :
    ∃ t, run (askScript ws).length s = .next t ∧ t.pending = rest ∧ t.names = s.names ∧
      t.observed = s.observed ++ (ws.map (wordResponse s.names)).map .response := by
  induction ws generalizing s with
  | nil => exact ⟨s, rfl, h, rfl, (List.append_nil _).symm⟩
  | cons w ws ih =>
    obtain ⟨t, hrun, hpending, hnames, hobserved⟩ := ih (s := complete (wordResponse s.names w)
      { s with pending := askScript ws ++ rest, observed := s.observed ++ [.response (wordResponse s.names w)] }) rfl
    have hlen : (askScript (w :: ws)).length = 2 + (askScript ws).length := Nat.add_comm _ 2
    refine ⟨t, ?_, hpending, hnames, ?_⟩
    · rw [hlen, run_add 2 _ (run_ask h)]
      exact hrun
    · simp [hobserved]

/-- The answer a word gets alone after reset is its response under NAME (R30, R192). -/
theorem respondsAlone_iff (names : OpenNames) (w : Request) (r : Response) :
    RespondsAlone names w r ↔ r = wordResponse names w := by
  have hstep := step_issue (s := { State.resetWith names with pending := [.issue w] }) rfl
  constructor
  · rintro ⟨u, hu, rfl⟩
    rw [hstep, Host.Outcome.next.injEq] at hu
    rw [← hu]
    rfl
  · rintro rfl
    exact ⟨_, hstep, rfl⟩

end Sys2Proof.Machine
end

section
/-! The statements of 20_memory.md. -/

namespace Sys2Proof.Machine

/-- Settles O44, by `run_askScript`: the response of a word is the one it gets alone after reset. -/
theorem answersComeInTheOrderOfIssue : Obligations.AnswersComeInTheOrderOfIssue := by
  intro ws s h
  obtain ⟨t, hrun, hpending, -, hobserved⟩ := run_askScript (h.trans (List.append_nil _).symm)
  refine ⟨t, ws.map (wordResponse s.names), ?_, hpending, hobserved, ?_⟩
  · rw [runPending, h, hrun]
  · rw [List.forall₂_map_right_iff, List.forall₂_same]
    exact fun w _ => (respondsAlone_iff s.names w _).mpr rfl

/-- Settles O43: the request sets RSP_VALID, so the reads after it are those of `run_reads`. -/
theorem readsReturnTheLastResponse : Obligations.ReadsReturnTheLastResponse := by
  intro whats w s h
  have hissue := step_issue h
  have hreads := run_reads (s := complete (wordResponse s.names w) { s with pending := whats.map .read }) rfl
    (List.append_nil _).symm
  rw [runPending, h, List.length_cons, List.length_map, run_succ_next _ hissue, hreads]
  exact ⟨_, _, hissue, rfl, rfl, rfl, rfl⟩

end Sys2Proof.Machine
end

section
/-! SUPPORT. A request word as its fields: the word packed from its fields is the word, and a row of the opcode table
says which fields are fixed (R60 to R64). -/

namespace Sys2Proof.Machine

/-- Two concatenations are equal exactly when their parts are. -/
theorem append_eq_append_iff {n m : Nat} {a c : BitVec n} {b d : BitVec m} : a ++ b = c ++ d ↔ a = c ∧ b = d := by
  refine ⟨fun h => ⟨?_, ?_⟩, fun ⟨ha, hb⟩ => ha ▸ hb ▸ rfl⟩
  · have hhigh := congrArg (·.extractLsb' m n) h
    simpa only [field_append_high _ _ m n le_rfl, Nat.sub_self, field_whole] using hhigh
  · have hlow := congrArg (·.extractLsb' 0 m) h
    simpa only [field_append_low _ _ 0 m (Nat.zero_add m).le, field_whole] using hlow

/-- A request word is its OP, its RSVD and its PAYLOAD (R60). -/
theorem request_eq_fields (w : Request) : reqOp w ++ reqRsvd w ++ reqPayload w = w := by
  simp only [reqOp, reqRsvd, reqPayload, extractLsb_eq]
  simp (disch := omega) only [BitVec.extractLsb'_append_extractLsb'_eq_extractLsb']
  simp only [Nat.reduceSub, Nat.reduceAdd, field_whole]

/-- A payload is the ENC layout of its two codes when its low byte is 0 (R62). -/
theorem packCodes_payload (p : BitVec 40) (h : p.extractLsb 7 0 = 0#8) :
    packCodes (payloadMcc p) (payloadMnc p) = p := by
  simp only [packCodes, payloadMcc, payloadMnc, ← h, extractLsb_eq]
  simp (disch := omega) only [BitVec.extractLsb'_append_extractLsb'_eq_extractLsb']
  simp only [Nat.reduceSub, Nat.reduceAdd, field_whole]

/-- RSVD_E is the low byte of the payload (R62). -/
theorem extractLsb_reqPayload_low (w : Request) : (reqPayload w).extractLsb 7 0 = reqRsvdEnc w :=
  BitVec.extractLsb'_extractLsb'_of_le (by decide)

/-- The payload of a capability request is its reserved part and its byte (R64). -/
theorem reqRsvdCap_append_byte (w : Request) : reqRsvdCap w ++ w.extractLsb 7 0 = reqPayload w :=
  BitVec.extractLsb'_append_extractLsb'_eq_extractLsb' rfl

end Sys2Proof.Machine
end

section
/-! SUPPORT. When a word decodes to each of the four commands, and that decoding undoes encoding. -/

namespace Sys2Proof.Machine

/-- A word decodes to ENC exactly when its OP is ENC's and its reserved fields are 0 (R61, R62, R67). -/
theorem decode_eq_enc_iff (w : Request) (mcc mnc : Code) :
    decode w = .ok (.enc mcc mnc) ↔ (reqOp w = 0x1#4 ∧ reqRsvd w = 0#4 ∧ reqRsvdEnc w = 0#8) ∧
      payloadMcc (reqPayload w) = mcc ∧ payloadMnc (reqPayload w) = mnc := by
  constructor
  · intro h
    simp only [decode] at h
    split_ifs at h with _ hv h1 he <;> cases h
    exact ⟨⟨h1, not_not.mp hv, not_not.mp he⟩, rfl, rfl⟩
  · rintro ⟨⟨h1, hv, he⟩, rfl, rfl⟩
    simp [decode, h1, hv, he]

/-- A word decodes to DEC exactly when its OP is DEC's and RSVD is 0 (R61, R63, R67). -/
theorem decode_eq_dec_iff (w : Request) (r : Record) :
    decode w = .ok (.dec r) ↔ (reqOp w = 0x2#4 ∧ reqRsvd w = 0#4) ∧ reqPayload w = r := by
  constructor
  · intro h
    simp only [decode] at h
    split_ifs at h with _ hv _ _ h2 <;> cases h
    exact ⟨⟨h2, not_not.mp hv⟩, rfl⟩
  · rintro ⟨⟨h2, hv⟩, rfl⟩
    simp [decode, h2, hv]

/-- A word decodes to CAPL exactly when its OP is CAPL's and its reserved fields are 0 (R61, R64, R67). -/
theorem decode_eq_capl_iff (w : Request) (b : Byte) :
    decode w = .ok (.capl b) ↔ (reqOp w = 0x3#4 ∧ reqRsvd w = 0#4 ∧ reqRsvdCap w = 0#32) ∧ w.extractLsb 7 0 = b := by
  constructor
  · intro h
    simp only [decode] at h
    split_ifs at h with _ hv _ _ _ hc h3 <;> cases h
    exact ⟨⟨h3, not_not.mp hv, not_not.mp hc⟩, rfl⟩
  · rintro ⟨⟨h3, hv, hc⟩, rfl⟩
    simp [decode, h3, hv, hc]

/-- A word decodes to CAPG exactly when its OP is CAPG's and its reserved fields are 0 (R61, R64, R67). -/
theorem decode_eq_capg_iff (w : Request) (b : Byte) :
    decode w = .ok (.capg b) ↔ (reqOp w = 0x4#4 ∧ reqRsvd w = 0#4 ∧ reqRsvdCap w = 0#32) ∧ w.extractLsb 7 0 = b := by
  constructor
  · intro h
    have h4 := reqOp_of_decode_ok h
    simp only [decode] at h
    split_ifs at h with _ hv _ _ _ hc <;> cases h
    exact ⟨⟨h4, not_not.mp hv, not_not.mp hc⟩, rfl⟩
  · rintro ⟨⟨h4, hv, hc⟩, rfl⟩
    simp [decode, h4, hv, hc]

/-- A number that is a row's word decodes as the word it gives (R60). -/
theorem decode_of_decodeTableWord {nbits n : Nat} {i : Instr} (h : decodeTableWord nbits n = some i) :
    decode (BitVec.ofNat 48 (n % 2 ^ nbits)) = .ok i := by
  simp only [decodeTableWord] at h
  split_ifs at h
  cases hd : decode (BitVec.ofNat 48 (n % 2 ^ nbits)) with
  | error e => rw [hd] at h; cases h
  | ok j => rw [hd] at h; exact congrArg Except.ok (Option.some.inj h)

/-- The low byte of a CAPL or CAPG request is the command's byte (R64). -/
theorem extractLsb_encode_byte {i : Instr} {b : Byte} (h : encodePayload i = 0#32 ++ b) :
    (encode i).extractLsb 7 0 = b := by
  simp (disch := omega) only [encode, h, extractLsb_eq, field_append_low]
  exact field_whole b

/-- Decoding the word of a command gives the command back. -/
@[simp] theorem decode_encode (i : Instr) : decode (encode i) = .ok i := by
  cases i with
  | enc mcc mnc =>
    obtain ⟨-, hop, hrsvd, hpayload, henc, -⟩ := Laws.EncodeLegal.enc mcc mnc
    rw [decode_eq_enc_iff, hpayload]
    exact ⟨⟨hop, hrsvd, henc rfl⟩, payloadMcc_packCodes mcc mnc, payloadMnc_packCodes mcc mnc⟩
  | dec r =>
    obtain ⟨-, hop, hrsvd, hpayload, -⟩ := Laws.EncodeLegal.dec r
    exact (decode_eq_dec_iff _ _).mpr ⟨⟨hop, hrsvd⟩, hpayload⟩
  | capl b =>
    obtain ⟨-, hop, hrsvd, -, -, hcap⟩ := Laws.EncodeLegal.capl b
    exact (decode_eq_capl_iff _ _).mpr ⟨⟨hop, hrsvd, hcap (.inl rfl)⟩, extractLsb_encode_byte rfl⟩
  | capg b =>
    obtain ⟨-, hop, hrsvd, -, -, hcap⟩ := Laws.EncodeLegal.capg b
    exact (decode_eq_capg_iff _ _).mpr ⟨⟨hop, hrsvd, hcap (.inr rfl)⟩, extractLsb_encode_byte rfl⟩

/-- RSVD of a legal word is 0 (R67). -/
theorem reqRsvd_of_decode_ok {w : Request} {i : Instr} (h : decode w = .ok i) : reqRsvd w = 0#4 := by
  have hlegal := not_illegalWord_of_decode_ok h
  rw [illegalWord_iff] at hlegal
  exact not_not.mp fun hv => hlegal (.inr (.inl hv))

/-- The payload of a legal word is that of the command it decodes to (R62 to R64). -/
theorem encodePayload_of_decode_ok {w : Request} {i : Instr} (h : decode w = .ok i) :
    encodePayload i = reqPayload w := by
  cases i with
  | enc mcc mnc =>
    obtain ⟨⟨-, -, henc⟩, rfl, rfl⟩ := (decode_eq_enc_iff _ _ _).mp h
    exact packCodes_payload _ ((extractLsb_reqPayload_low w).trans henc)
  | dec r => exact ((decode_eq_dec_iff _ _).mp h).2.symm
  | capl b =>
    obtain ⟨⟨-, -, hcap⟩, rfl⟩ := (decode_eq_capl_iff _ _).mp h
    rw [← reqRsvdCap_append_byte, hcap, encodePayload]
  | capg b =>
    obtain ⟨⟨-, -, hcap⟩, rfl⟩ := (decode_eq_capg_iff _ _).mp h
    rw [← reqRsvdCap_append_byte, hcap, encodePayload]

/-- A legal word is the word of the command it decodes to. -/
theorem encode_of_decode_ok {w : Request} {i : Instr} (h : decode w = .ok i) : encode i = w := by
  rw [encode, ← reqOp_of_decode_ok h, ← reqRsvd_of_decode_ok h, encodePayload_of_decode_ok h, request_eq_fields]

end Sys2Proof.Machine
end

section
/-! SUPPORT. The rows of the opcode table: a word under a row's mask (R60, R61). -/

namespace Sys2Proof.Machine

/-- A word under a mask of OP, RSVD and part of the payload has a row's value exactly when OP is the row's, RSVD is 0
and the masked payload is 0. -/
theorem and_mask_eq_iff (w : Request) (op : BitVec 4) (mask : BitVec 40) :
    w &&& (0xF#4 ++ 0xF#4 ++ mask) = op ++ 0#4 ++ 0#40 ↔
      reqOp w = op ∧ reqRsvd w = 0#4 ∧ reqPayload w &&& mask = 0#40 := by
  have hones (a : BitVec 4) : a &&& 0xF#4 = a := BitVec.and_allOnes
  conv_lhs => rw [← request_eq_fields w]
  rw [BitVec.and_append, BitVec.and_append, append_eq_append_iff, append_eq_append_iff, hones, hones, and_assoc]

/-- The ENC row's mask covers RSVD_E (R62). -/
theorem reqPayload_and_encMask_iff (w : Request) : reqPayload w &&& 0x00000000FF#40 = 0#40 ↔ reqRsvdEnc w = 0#8 := by
  have hsplit : reqPayload w = (reqPayload w).extractLsb' 8 32 ++ reqRsvdEnc w := by
    rw [← extractLsb_reqPayload_low, extractLsb_eq]
    simp (disch := omega) only [BitVec.extractLsb'_append_extractLsb'_eq_extractLsb']
    simp only [Nat.reduceSub, Nat.reduceAdd, field_whole]
  have hones : reqRsvdEnc w &&& 0xFF#8 = reqRsvdEnc w := BitVec.and_allOnes
  rw [hsplit, show 0x00000000FF#40 = 0#32 ++ 0xFF#8 from rfl, show 0#40 = 0#32 ++ 0#8 from rfl, BitVec.and_append,
    append_eq_append_iff, hones]
  simp

/-- The mask of the CAPL and CAPG rows covers `REQ[39:8]` (R64). -/
theorem reqPayload_and_capMask_iff (w : Request) : reqPayload w &&& 0xFFFFFFFF00#40 = 0#40 ↔ reqRsvdCap w = 0#32 := by
  have hones : reqRsvdCap w &&& 0xFFFFFFFF#32 = reqRsvdCap w := BitVec.and_allOnes
  rw [← reqRsvdCap_append_byte, show 0xFFFFFFFF00#40 = 0xFFFFFFFF#32 ++ 0#8 from rfl,
    show 0#40 = 0#32 ++ 0#8 from rfl, BitVec.and_append, append_eq_append_iff, hones]
  simp

end Sys2Proof.Machine
end

section
/-! SUPPORT. Characters and symbols: what the host reads from a text of symbols (R69, R70, R166, R167). -/

namespace Sys2Proof.Machine

/-- The character of a symbol is read back as the symbol, with and without folding (R166, R167). -/
@[simp] theorem symOf_charOf (lc : Lowercase) (x : Sym) : symOf lc (charOf x) = some x := by
  revert x
  cases lc <;> decide

@[simp] theorem symsText_append (l m : List Sym) : symsText (l ++ m) = symsText l ++ symsText m := List.map_append

@[simp] theorem symsText_length (l : List Sym) : (symsText l).length = l.length := List.length_map _

/-- A text of symbols is read back as the symbols (R166, R167). -/
@[simp] theorem symsOfText_symsText (lc : Lowercase) (l : List Sym) : symsOfText lc (symsText l) = some l := by
  induction l with
  | nil => rfl
  | cons x xs ih =>
    simp only [symsOfText, symsText] at ih
    simp [symsOfText, symsText, ih]

/-- The ten symbols of a record packed again are the record (R44). -/
@[simp] theorem recordOfSyms_recordSyms (r : Record) : recordOfSyms (recordSyms r).toList = r := by
  have hsyms : (Vector.ofFn fun i : Fin 10 => (recordSyms r).toList.getD i.val 0) = recordSyms r := by
    ext i hi
    simp
  rw [recordOfSyms, hsyms, packSyms_recordSyms]

/-- The ten characters of a record are read back as the record (R70, R173). -/
@[simp] theorem recordOfText_recordText (lc : Lowercase) (r : Record) : recordOfText lc (recordText r) = some r := by
  simp [recordOfText, recordText]

/-- Byte 3 of a record is its bits 15..8 (R42, R44). -/
theorem recordByte_three (r : Record) : recordByte r 3 = r.extractLsb 15 8 :=
  BitVec.extractLsb'_append_extractLsb'_eq_extractLsb' rfl

/-- Byte 4 of a record is its bits 7..0 (R42, R44). -/
theorem recordByte_four (r : Record) : recordByte r 4 = r.extractLsb 7 0 :=
  BitVec.extractLsb'_append_extractLsb'_eq_extractLsb' rfl

/-- The slots of a code, given as a list of symbols of which those past the code's end are fillers (R69). -/
def slots (l : List Sym) : List Sym := (l ++ [filler, filler, filler]).take 3

/-- A string whose first three characters are symbols gives a code of those symbols (R69). -/
theorem codeOfText_of_converted {lc : Lowercase} {x : Text} (h : ∀ c ∈ x.take 3, symOf lc c ≠ none) :
    ∃ c, codeOfText lc x = some c ∧ c.len.toNat = min x.length 15 ∧
      [c.sym0, c.sym1, c.sym2] = slots ((x.take 3).filterMap (symOf lc)) := by
  have hlen : (BitVec.ofNat 4 (min x.length 15)).toNat = min x.length 15 := by
    rw [BitVec.toNat_ofNat, Nat.mod_eq_of_lt (by omega)]
  simp only [ne_eq, Option.ne_none_iff_exists'] at h
  match x, h with
  | [], _ => exact ⟨_, rfl, hlen, rfl⟩
  | [a], h =>
    obtain ⟨p, hp⟩ := h a (by simp)
    exact ⟨⟨p, filler, filler, BitVec.ofNat 4 (min _ 15)⟩, by simp [codeOfText, slotOf, hp], hlen, by simp [slots, hp]⟩
  | [a, b], h =>
    obtain ⟨p, hp⟩ := h a (by simp)
    obtain ⟨q, hq⟩ := h b (by simp)
    exact ⟨⟨p, q, filler, BitVec.ofNat 4 (min _ 15)⟩, by simp [codeOfText, slotOf, hp, hq], hlen,
      by simp [slots, hp, hq]⟩
  | a :: b :: c :: rest, h =>
    obtain ⟨p, hp⟩ := h a (by simp)
    obtain ⟨q, hq⟩ := h b (by simp)
    obtain ⟨r, hr⟩ := h c (by simp)
    exact ⟨⟨p, q, r, BitVec.ofNat 4 (min _ 15)⟩, by simp [codeOfText, slotOf, hp, hq, hr], hlen,
      by simp [slots, hp, hq, hr]⟩

/-- A string with a rejected character among its first three gives no code (R69, R166). -/
theorem codeOfText_of_rejected {lc : Lowercase} {x : Text} (h : ∃ c ∈ x.take 3, symOf lc c = none) :
    codeOfText lc x = none := by
  obtain ⟨c, hc, hnone⟩ := h
  obtain ⟨i, hi, rfl⟩ := List.mem_iff_getElem.mp hc
  have hslot : slotOf lc x i = none := by
    simp only [List.length_take] at hi
    simpa [slotOf, List.getElem?_eq_getElem (show i < x.length by omega)] using hnone
  have hi3 : i < 3 := by simp only [List.length_take] at hi; omega
  simp only [codeOfText]
  interval_cases i
  · simp [hslot]
  · cases slotOf lc x 0 <;> simp [hslot]
  · cases slotOf lc x 0 <;> cases slotOf lc x 1 <;> simp [hslot]

/-- The request of two strings that both give a code is the ENC request of the codes (R69). -/
theorem encRequest_of_codes {lc : Lowercase} {x y : Text} {a b : Code} (hx : codeOfText lc x = some a)
    (hy : codeOfText lc y = some b) : encRequest lc x y = some (encode (.enc a b)) := by
  simp only [encRequest, hx, hy]

/-- No request is built when one of the strings gives no code (R69, R166). -/
theorem encRequest_eq_none {lc : Lowercase} {x y : Text} (h : codeOfText lc x = none ∨ codeOfText lc y = none) :
    encRequest lc x y = none := by
  rcases h with h | h
  · simp only [encRequest, h]
  · cases hx : codeOfText lc x <;> simp only [encRequest, h, hx]

/-- A text of at most 15 symbols is read as the code of the symbols (R69, R104). -/
theorem codeOfText_symsText (lc : Lowercase) {l : List Sym} (h : l.length ≤ 15) :
    codeOfText lc (symsText l) = some (codeOfSyms l) := by
  have hslot (i : Nat) : slotOf lc (symsText l) i = some (l.getD i filler) := by
    cases hi : l[i]? <;> simp [slotOf, symsText, hi]
  simp only [codeOfText, hslot, symsText_length, Nat.min_eq_left h, codeOfSyms]

/-- A padded slot of a code is a present symbol or the filler (R65, R81). -/
theorem normalise_eq_presentSyms (c : Code) :
    normalise c = #v[(presentSyms c).getD 0 filler, (presentSyms c).getD 1 filler, (presentSyms c).getD 2 filler] := by
  simp only [normalise, padded, present, decide_eq_true_eq, presentSyms, List.getD_eq_getElem?_getD, List.getElem?_take]
  split_ifs <;> rfl

/-- The code of a list of at most 15 symbols is padded with fillers already (R81, R104). -/
theorem normalise_codeOfSyms {l : List Sym} (h : l.length ≤ 15) :
    normalise (codeOfSyms l) = #v[l.getD 0 filler, l.getD 1 filler, l.getD 2 filler] := by
  have hpadded (i : Nat) : padded i (codeOfSyms l).len (l.getD i filler) = l.getD i filler := by
    simp only [padded, present, codeOfSyms, BitVec.toNat_ofNat, Nat.mod_eq_of_lt (show l.length < 2 ^ 4 by omega),
      decide_eq_true_eq, ite_eq_left_iff, not_lt]
    exact fun hi => (List.getD_eq_default l filler hi).symm
  rw [← hpadded 0, ← hpadded 1, ← hpadded 2]
  rfl

theorem presentSyms_length_le (c : Code) : (presentSyms c).length ≤ 3 :=
  List.length_take_le' _ _

/-- Of a code the block needs only its present symbols: the code of those has the same padded slots (R65, R81). -/
theorem normalise_codeOfSyms_presentSyms (c : Code) : normalise (codeOfSyms (presentSyms c)) = normalise c := by
  rw [normalise_codeOfSyms ((presentSyms_length_le c).trans (by decide)), normalise_eq_presentSyms]

/-- ENC writes the same response for two pairs of codes with the same padded slots (R81 to R85). -/
theorem encResponse_congr {a b c d : Code} (hac : normalise a = normalise c) (hbd : normalise b = normalise d) :
    encResponse a b = encResponse c d := by
  rw [encResponse, encodeRecord, hac, hbd, encResponse, encodeRecord]

end Sys2Proof.Machine
end

section
/-! SUPPORT. The assembler's reading of text: comments, blanks, quotes and `0x` literals (R68). -/

namespace Sys2Proof.Machine

/-- A character that is no blank, no double quote and no semicolon: it stands for itself wherever it is (R68). -/
abbrev PlainChar (c : Byte) : Prop := isBlank c = false ∧ c ≠ chr '"' ∧ c ≠ chr ';'

/-- The character of a symbol is plain. -/
theorem plainChar_charOf (x : Sym) : PlainChar (charOf x) := by
  revert x
  decide

theorem plainChar_of_mem_symsText {l : List Sym} : ∀ c ∈ symsText l, PlainChar c := by
  intro c h
  obtain ⟨x, -, rfl⟩ := List.mem_map.mp h
  exact plainChar_charOf x

/-- A text begins and ends with no blank. -/
def Trimmed (t : Text) : Prop :=
  ∃ a b, t.head? = some a ∧ t.getLast? = some b ∧ isBlank a = false ∧ isBlank b = false

theorem dropWhile_isBlank_eq_self {t : Text} {a : Byte} (h : t.head? = some a) (ha : isBlank a = false) :
    t.dropWhile isBlank = t := by
  obtain ⟨rest, rfl⟩ := List.head?_eq_some_iff.mp h
  exact List.dropWhile_cons_of_neg (by simp [ha])

/-- Trimming leaves a text that begins and ends with no blank as it is. -/
theorem Trimmed.trim_eq {t : Text} (h : Trimmed t) : trim t = t := by
  obtain ⟨a, b, hhead, hlast, ha, hb⟩ := h
  rw [trim, dropWhile_isBlank_eq_self hhead ha, dropWhile_isBlank_eq_self (List.head?_reverse.trans hlast) hb,
    List.reverse_reverse]

/-- A space before such a text is trimmed off. -/
theorem Trimmed.trim_space_cons {t : Text} (h : Trimmed t) : trim (chr ' ' :: t) = t :=
  h.trim_eq

/-- What stands between a trimmed text's end and another's beginning is not trimmed. -/
theorem Trimmed.append {t u : Text} (ht : Trimmed t) (hu : Trimmed u) (between : Text) :
    Trimmed (t ++ (between ++ u)) := by
  obtain ⟨a, -, hhead, -, ha, -⟩ := ht
  obtain ⟨-, b, -, hlast, -, hb⟩ := hu
  exact ⟨a, b, by simp [hhead], by simp [hlast], ha, hb⟩

/-- Plain characters are not trimmed. -/
theorem trimmed_of_plain {t : Text} (h : ∀ c ∈ t, PlainChar c) (hne : t ≠ []) : Trimmed t :=
  ⟨t.head hne, t.getLast hne, List.head?_eq_some_head hne, List.getLast?_eq_some_getLast hne,
    (h _ (List.head_mem hne)).1, (h _ (List.getLast_mem hne)).1⟩

/-- A text with no quote and no semicolon stays before whatever follows it, in quotes or not. -/
theorem stripComment_append {inside : Bool} {t : Text} (h : ∀ c ∈ t, c ≠ chr '"' ∧ c ≠ chr ';') (rest : Text) :
    stripComment inside (t ++ rest) = t ++ stripComment inside rest := by
  induction t with
  | nil => rfl
  | cons c t ih =>
    obtain ⟨⟨hq, hs⟩, ht⟩ := List.forall_mem_cons.mp h
    simp [stripComment, hq, hs, ih ht]

/-- Plain characters hold no comment. -/
theorem stripComment_plain {t : Text} (h : ∀ c ∈ t, PlainChar c) : stripComment false t = t := by
  simpa [stripComment] using stripComment_append (inside := false) (fun c hc => (h c hc).2) []

/-- A double quote as a literal text. -/
theorem txt_quote : txt "\"" = [chr '"'] := by decide

/-- A quoted string is the string between two double quotes. -/
theorem quoted_eq (t : Text) : quoted t = chr '"' :: (t ++ [chr '"']) := by
  simp [quoted, txt_quote]

theorem trimmed_quoted (t : Text) : Trimmed (quoted t) :=
  ⟨chr '"', chr '"', by simp [quoted_eq], by simp [quoted_eq, List.getLast?_cons], by decide, by decide⟩

/-- A quoted string of plain characters stays before whatever follows it. -/
theorem stripComment_quoted {t : Text} (h : ∀ c ∈ t, PlainChar c) (rest : Text) :
    stripComment false (quoted t ++ rest) = quoted t ++ stripComment false rest := by
  have hinside := stripComment_append (inside := true) (fun c hc => (h c hc).2) (chr '"' :: rest)
  simpa [quoted_eq, stripComment] using hinside

/-- A quoted string without a quote in it is read as what stands between the quotes (R68). -/
theorem unquote_quoted {t : Text} (h : ∀ c ∈ t, PlainChar c) : unquote (quoted t) = some t := by
  have hquote : chr '"' ∉ t := fun hmem => (h _ hmem).2.1 rfl
  simp [unquote, quoted_eq, hquote]

/-- Two quoted strings with a comma and a space between them, as disassembly writes the operands of ENC. -/
def quotedPair (x y : Text) : Text := quoted x ++ (txt ", " ++ quoted y)

theorem trimmed_quotedPair (x y : Text) : Trimmed (quotedPair x y) :=
  (trimmed_quoted x).append (trimmed_quoted y) _

/-- Two quoted strings of plain characters hold no comment. -/
theorem stripComment_quotedPair {x y : Text} (hx : ∀ c ∈ x, PlainChar c) (hy : ∀ c ∈ y, PlainChar c) :
    stripComment false (quotedPair x y) = quotedPair x y := by
  have hend : stripComment false (quoted y) = quoted y := by simpa [stripComment] using stripComment_quoted hy []
  rw [quotedPair, stripComment_quoted hx, stripComment_append (by decide), hend]

/-- The two strings of an ENC line are read back (R68). -/
theorem unquotePair_quotedPair {x y : Text} (hx : ∀ c ∈ x, PlainChar c) (hy : ∀ c ∈ y, PlainChar c) :
    unquotePair (quotedPair x y) = some (x, y) := by
  have hsplit : quotedPair x y = chr '"' :: (x ++ chr '"' :: chr ',' :: chr ' ' :: quoted y) := by
    simp [quotedPair, quoted_eq x, show txt ", " = [chr ',', chr ' '] by decide]
  have hfirst : (x ++ chr '"' :: chr ',' :: chr ' ' :: quoted y).takeWhile (fun c => c ≠ chr '"') = x := by
    rw [List.takeWhile_append_of_pos (fun c hc => decide_eq_true (hx c hc).2.1)]
    simp
  have hafter : trim (chr ',' :: chr ' ' :: quoted y) = chr ',' :: chr ' ' :: quoted y :=
    ((trimmed_of_plain (t := [chr ',']) (by decide) (by simp)).append (trimmed_quoted y)
      [chr ' ']).trim_eq
  have hdrop : (x ++ chr '"' :: chr ',' :: chr ' ' :: quoted y).drop (x.length + 1) =
      chr ',' :: chr ' ' :: quoted y := by
    simp [List.drop_append]
  simp only [hsplit, unquotePair, hfirst, hdrop, hafter, List.tail_cons, (trimmed_quoted y).trim_space_cons,
    unquote_quoted hy]
  simp

/-- The symbols of the low `4 n` bits of a number, the most significant first: what `hexDigits` writes. -/
def hexSyms : Nat → Nat → List Sym
  | 0, _ => []
  | n + 1, v => hexSyms n (v / 16) ++ [BitVec.ofNat 4 v]

theorem hexDigits_eq (n v : Nat) : hexDigits n v = symsText (hexSyms n v) := by
  induction n generalizing v with
  | zero => rfl
  | succ n ih => rw [hexDigits, ih, hexSyms, symsText_append]; rfl

theorem hexSyms_length (n v : Nat) : (hexSyms n v).length = n := by
  induction n generalizing v with
  | zero => rfl
  | succ n ih => simp [hexSyms, ih]

/-- The number of a list of hexadecimal digits, the most significant first. -/
def symsNumber (l : List Sym) : Nat := l.foldl (fun acc x => 16 * acc + x.toNat) 0

theorem symsNumber_append_singleton (l : List Sym) (x : Sym) : symsNumber (l ++ [x]) = 16 * symsNumber l + x.toNat := by
  simp [symsNumber]

/-- The digits of a number are those of its value modulo `16 ^ n`. -/
theorem symsNumber_hexSyms (n v : Nat) (h : v < 16 ^ n) : symsNumber (hexSyms n v) = v := by
  induction n generalizing v with
  | zero => simp_all [symsNumber, hexSyms]
  | succ n ih =>
    have hdiv : v / 16 < 16 ^ n := by rw [pow_succ] at h; omega
    rw [hexSyms, symsNumber_append_singleton, ih _ hdiv, BitVec.toNat_ofNat]
    omega

/-- The characters of a `0x` literal are plain. -/
theorem plainChar_of_mem_hexLiteral {n v : Nat} : ∀ c ∈ hexLiteral n v, PlainChar c := by
  rw [hexLiteral, List.forall_mem_append, hexDigits_eq]
  exact ⟨by decide, plainChar_of_mem_symsText⟩

theorem trimmed_hexLiteral (n v : Nat) : Trimmed (hexLiteral n v) :=
  trimmed_of_plain plainChar_of_mem_hexLiteral (List.append_ne_nil_of_left_ne_nil (by decide) _)

/-- A `0x` literal is read back as its number (R68). -/
theorem unhex_hexLiteral {n v : Nat} (h : v < 16 ^ n) : unhex n (hexLiteral n v) = some v := by
  have hzerox : (txt "0x").length = 2 := by decide
  have htake : (hexLiteral n v).take 2 = txt "0x" := List.take_left' hzerox
  have hdrop : (hexLiteral n v).drop 2 = hexDigits n v := List.drop_left' hzerox
  have hlen : (hexLiteral n v).length = n + 2 := by
    rw [hexLiteral, List.length_append, hzerox, hexDigits_eq, symsText_length, hexSyms_length, Nat.add_comm]
  rw [unhex, if_pos ⟨htake, hlen⟩, hdrop, hexDigits_eq, symsOfText_symsText]
  exact congrArg some (symsNumber_hexSyms n v h)

/-- A `0x` literal is no quoted string. -/
theorem unquote_hexLiteral (n v : Nat) : unquote (hexLiteral n v) = none := by
  have hhead : hexLiteral n v = chr '0' :: chr 'x' :: hexDigits n v :=
    congrArg (· ++ hexDigits n v) (show txt "0x" = [chr '0', chr 'x'] by decide)
  simp [hhead, unquote, show chr '0' ≠ chr '"' by decide]

end Sys2Proof.Machine
end

section
/-! SUPPORT. Lines of assembly: each line that disassembly prints is read as what it was printed from (R68, R71). -/

namespace Sys2Proof.Machine

/-- A line of a mnemonic, a space and an operand text is read by its mnemonic. -/
theorem parseLine_mnemonic {m ops : Text} (hm : ∀ c ∈ m, PlainChar c) (hne : m ≠ []) (hops : Trimmed ops)
    (hstrip : stripComment false ops = ops) :
    parseLine (m ++ chr ' ' :: ops) = (parseOperands m ops).map fun l => [l] := by
  have hspace : stripComment false (chr ' ' :: ops) = chr ' ' :: ops := by
    rw [← List.singleton_append, stripComment_append (by decide), hstrip]
  have hline : trim (stripComment false (m ++ chr ' ' :: ops)) = m ++ chr ' ' :: ops := by
    rw [stripComment_append (fun c hc => (hm c hc).2), hspace]
    exact ((trimmed_of_plain hm hne).append hops [chr ' ']).trim_eq
  have htake : (m ++ chr ' ' :: ops).takeWhile (fun c => !isBlank c) = m := by
    rw [List.takeWhile_append_of_pos (fun c hc => by simp [(hm c hc).1])]
    simp [show isBlank (chr ' ') = true by decide]
  have hdrop : (m ++ chr ' ' :: ops).drop m.length = chr ' ' :: ops := List.drop_left
  simp only [parseLine, hline, htake, hdrop, hops.trim_space_cons]
  rw [if_neg (by simp)]

theorem parseOperands_enc (ops : Text) :
    parseOperands (txt "ENC") ops = (unquotePair ops).map fun p => .enc p.1 p.2 := by
  simp only [parseOperands, if_true]

theorem parseOperands_dec_hexLiteral (n v : Nat) :
    parseOperands (txt "DEC") (hexLiteral n v) =
      (unhex 10 (hexLiteral n v)).map fun u => .decHex (BitVec.ofNat 40 u) := by
  rw [parseOperands, if_neg (by decide), if_pos rfl, unquote_hexLiteral]

theorem parseOperands_capl (ops : Text) :
    parseOperands (txt "CAPL") ops = (unhex 2 ops).map fun v => .capl (BitVec.ofNat 8 v) := by
  rw [parseOperands, if_neg (by decide), if_neg (by decide), if_pos rfl]

theorem parseOperands_capg (ops : Text) :
    parseOperands (txt "CAPG") ops = (unhex 2 ops).map fun v => .capg (BitVec.ofNat 8 v) := by
  rw [parseOperands, if_neg (by decide), if_neg (by decide), if_neg (by decide), if_pos rfl]

theorem parseOperands_req (ops : Text) :
    parseOperands (txt ".req") ops = (unhex 12 ops).map fun v => .raw (BitVec.ofNat 48 v) := by
  rw [parseOperands, if_neg (by decide), if_neg (by decide), if_neg (by decide), if_neg (by decide),
    if_neg (by decide), if_pos rfl]

/-- A line of a mnemonic and a `0x` literal, whose mnemonic takes a literal of that many digits, is read as its line. -/
theorem parseLine_hexLine {start m : Text} {n v : Nat} {f : Nat → AsmLine} (hstart : start = m ++ [chr ' '])
    (hm : ∀ c ∈ m, PlainChar c) (hne : m ≠ []) (hv : v < 16 ^ n)
    (hops : parseOperands m (hexLiteral n v) = (unhex n (hexLiteral n v)).map f) :
    parseLine (start ++ hexLiteral n v) = some [f v] := by
  rw [hstart, List.append_assoc, List.singleton_append, parseLine_mnemonic hm hne (trimmed_hexLiteral n v)
    (stripComment_plain plainChar_of_mem_hexLiteral), hops, unhex_hexLiteral hv]
  rfl

theorem parseLine_enc (l k : List Sym) :
    parseLine (txt "ENC " ++ quoted (symsText l) ++ txt ", " ++ quoted (symsText k)) =
      some [.enc (symsText l) (symsText k)] := by
  have hline : txt "ENC " ++ quoted (symsText l) ++ txt ", " ++ quoted (symsText k) =
      txt "ENC" ++ chr ' ' :: quotedPair (symsText l) (symsText k) := by
    simp [quotedPair, show txt "ENC " = txt "ENC" ++ [chr ' '] by decide]
  rw [hline, parseLine_mnemonic (by decide) (by decide) (trimmed_quotedPair _ _)
    (stripComment_quotedPair plainChar_of_mem_symsText plainChar_of_mem_symsText), parseOperands_enc,
    unquotePair_quotedPair plainChar_of_mem_symsText plainChar_of_mem_symsText]
  rfl

theorem parseLine_dec (r : Record) : parseLine (txt "DEC " ++ hexLiteral 10 r.toNat) = some [.decHex r] := by
  rw [parseLine_hexLine (m := txt "DEC") (by decide) (by decide) (by decide) r.isLt (parseOperands_dec_hexLiteral _ _),
    BitVec.ofNat_toNat, BitVec.setWidth_eq]

theorem parseLine_capl (b : Byte) : parseLine (txt "CAPL " ++ hexLiteral 2 b.toNat) = some [.capl b] := by
  rw [parseLine_hexLine (m := txt "CAPL") (by decide) (by decide) (by decide) b.isLt (parseOperands_capl _),
    BitVec.ofNat_toNat, BitVec.setWidth_eq]

theorem parseLine_capg (b : Byte) : parseLine (txt "CAPG " ++ hexLiteral 2 b.toNat) = some [.capg b] := by
  rw [parseLine_hexLine (m := txt "CAPG") (by decide) (by decide) (by decide) b.isLt (parseOperands_capg _),
    BitVec.ofNat_toNat, BitVec.setWidth_eq]

theorem parseLine_req (w : Request) : parseLine (txt ".req " ++ hexLiteral 12 w.toNat) = some [.raw w] := by
  rw [parseLine_hexLine (m := txt ".req") (by decide) (by decide) (by decide) w.isLt (parseOperands_req _),
    BitVec.ofNat_toNat, BitVec.setWidth_eq]

/-- The line of assembly as which a command prints (R71). -/
def printedLine : Instr → AsmLine
  | .enc mcc mnc => .enc (codeText mcc) (codeText mnc)
  | .dec r => .decHex r
  | .capl b => .capl b
  | .capg b => .capg b

/-- What a legal word prints is read as the line of its command. -/
theorem parseLine_disassemble_of_ok {w : Request} {i : Instr} (h : decode w = .ok i) :
    parseLine (disassemble w) = some [printedLine i] := by
  simp only [disassemble, h]
  cases i with
  | enc mcc mnc => exact parseLine_enc _ _
  | dec r => exact parseLine_dec r
  | capl b => exact parseLine_capl b
  | capg b => exact parseLine_capg b

/-- What an illegal word prints is read as its raw word. -/
theorem parseLine_disassemble_of_error {w : Request} {e : IllegalReason} (h : decode w = .error e) :
    parseLine (disassemble w) = some [.raw w] := by
  simp only [disassemble, h]
  exact parseLine_req w

/-- A text with one line of assembly assembles to what the line does. -/
theorem assembleText_of_parseLine {lc : Lowercase} {line : Text} {l : AsmLine} {ws : List Request}
    (hparse : parseLine line = some [l]) (hassemble : assemble lc l = some ws) : assembleText lc line = some ws := by
  simp [assembleText, hparse, hassemble]

/-- The line of a command other than ENC assembles to its word. -/
theorem assemble_printedLine_of_ne_enc (lc : Lowercase) {i : Instr} (h : ∀ mcc mnc, i ≠ .enc mcc mnc) :
    assemble lc (printedLine i) = some [encode i] := by
  cases i with
  | enc mcc mnc => exact absurd rfl (h mcc mnc)
  | dec r => rfl
  | capl b => rfl
  | capg b => rfl

/-- The line of ENC assembles to the word of its present symbols (R69, R71). -/
theorem assemble_printedLine_enc (lc : Lowercase) (mcc mnc : Code) :
    assemble lc (printedLine (.enc mcc mnc)) =
      some [encode (.enc (codeOfSyms (presentSyms mcc)) (codeOfSyms (presentSyms mnc)))] := by
  have hread (c : Code) : codeOfText lc (codeText c) = some (codeOfSyms (presentSyms c)) :=
    codeOfText_symsText lc ((presentSyms_length_le c).trans (by decide))
  rw [printedLine, assemble, encRequest_of_codes (hread mcc) (hread mnc)]
  rfl

end Sys2Proof.Machine
end

section
/-! The statements of 30_encoding.md. -/

namespace Sys2Proof.Machine

/-- Settles O1, by `decode_encode`. -/
theorem decodeOfEncodeIsTheCommand : Obligations.DecodeOfEncodeIsTheCommand :=
  fun i _ => decode_encode i

/-- Settles O2, by `encode_of_decode_ok`: a word is its OP, its RSVD and its payload, and a legal one has the
command's. -/
theorem encodeOfDecodeIsTheWord : Obligations.EncodeOfDecodeIsTheWord :=
  fun _ _ => encode_of_decode_ok

/-- Settles O57: a word prints as the line of its command, and of an ENC word's codes the block needs only the symbols
that the line holds. -/
theorem disassemblyKeepsTheCommand : Obligations.DisassemblyKeepsTheCommand := by
  intro w
  cases hd : decode w with
  | error e => exact ⟨w, assembleText_of_parseLine (parseLine_disassemble_of_error hd) rfl, fun _ => rfl, fun _ => rfl⟩
  | ok i =>
    have hparse := parseLine_disassemble_of_ok hd
    by_cases henc : ∃ mcc mnc, i = .enc mcc mnc
    · obtain ⟨mcc, mnc, rfl⟩ := henc
      refine ⟨_, assembleText_of_parseLine hparse (assemble_printedLine_enc .refuse mcc mnc), fun s => ?_,
        fun h => absurd rfl (h mcc mnc)⟩
      rw [issueRequest_eq, issueRequest_eq, wordResponse_ok (decode_encode _), wordResponse_ok hd, commandResponse,
        commandResponse,
        encResponse_congr (normalise_codeOfSyms_presentSyms mcc) (normalise_codeOfSyms_presentSyms mnc)]
    · have hne (mcc mnc : Code) : i ≠ .enc mcc mnc := fun h => henc ⟨mcc, mnc, h⟩
      have hasm := assemble_printedLine_of_ne_enc .refuse hne
      rw [encode_of_decode_ok hd] at hasm
      exact ⟨w, assembleText_of_parseLine hparse hasm, fun _ => rfl, fun _ => rfl⟩

/-- Settles O3, by `decode_error_iff`: the decoder rejects exactly the words of R67. -/
theorem illegalWordsAreThoseOfR67 : Obligations.IllegalWordsAreThoseOfR67 := by
  intro w
  refine ⟨fun h => ⟨(decode_error_iff w).mpr h, fun s => ⟨_, issueRequest_eq w s, ?_⟩⟩, fun h => ?_⟩
  · rw [complete_rspWord, wordResponse_of_illegal s.names h]
    exact rspStatus_packRsp _ _ _
  · have herr (e : IllegalReason) : decode w ≠ .error e := fun he => h ((decode_error_iff w).mp ⟨e, he⟩)
    refine ⟨?_, herr⟩
    cases hd : decode w with
    | error e => exact absurd hd (herr e)
    | ok i => exact ⟨i, rfl, fun j hj => (Except.ok.inj hj).symm⟩

/-- Settles O4: each row's mask and value fix the fields that select the command. -/
theorem tableRowsSelectTheirCommands : Obligations.TableRowsSelectTheirCommands := by
  intro w
  refine ⟨?_, ?_, ?_, ?_⟩
  · simp only [decode_eq_enc_iff, exists_and_left, exists_eq', and_true]
    rw [← reqPayload_and_encMask_iff]
    exact (and_mask_eq_iff w 0x1#4 0x00000000FF#40).symm
  · simp only [decode_eq_dec_iff, exists_and_left, exists_eq', and_true]
    simpa using (and_mask_eq_iff w 0x2#4 0#40).symm
  · simp only [decode_eq_capl_iff, exists_and_left, exists_eq', and_true]
    rw [← reqPayload_and_capMask_iff]
    exact (and_mask_eq_iff w 0x3#4 0xFFFFFFFF00#40).symm
  · simp only [decode_eq_capg_iff, exists_and_left, exists_eq', and_true]
    rw [← reqPayload_and_capMask_iff]
    exact (and_mask_eq_iff w 0x4#4 0xFFFFFFFF00#40).symm

/-- Settles O6: the fields of the payload are fields of the word. -/
theorem operandsAreTheFieldsOfTheWord : Obligations.OperandsAreTheFieldsOfTheWord := by
  refine fun w => ⟨fun mcc mnc h => ?_, fun r h => ?_, fun b h => ?_, fun b h => ?_⟩
  · obtain ⟨-, rfl, rfl⟩ := (decode_eq_enc_iff w mcc mnc).mp h
    simp (disch := decide) only [payloadMcc, payloadMnc, reqPayload, extractLsb_eq,
      BitVec.extractLsb'_extractLsb'_of_le, and_self]
  · exact ((decode_eq_dec_iff w r).mp h).2.symm
  · exact ((decode_eq_capl_iff w b).mp h).2.symm
  · exact ((decode_eq_capg_iff w b).mp h).2.symm

/-- Settles O47: the operands of the request are its fields, and hold what the strings' codes hold. -/
theorem encRequestFromStrings : Obligations.EncRequestFromStrings := by
  intro lc x y
  rw [List.forall_mem_append]
  simp only [List.mem_append, or_and_right, exists_or]
  refine ⟨fun ⟨hx, hy⟩ => ?_, fun h => encRequest_eq_none (h.imp codeOfText_of_rejected codeOfText_of_rejected)⟩
  obtain ⟨a, ha, halen, hasyms⟩ := codeOfText_of_converted hx
  obtain ⟨b, hb, hblen, hbsyms⟩ := codeOfText_of_converted hy
  obtain ⟨hfields, -⟩ := operandsAreTheFieldsOfTheWord (encode (.enc a b))
  obtain ⟨hafields, hbfields⟩ := hfields a b (decode_encode _)
  obtain ⟨-, hop, hrsvd, -, hlow, -⟩ := Laws.EncodeLegal.enc a b
  rw [hafields] at halen hasyms
  rw [hbfields] at hblen hbsyms
  exact ⟨_, encRequest_of_codes ha hb, hop, hrsvd, hlow rfl, halen, hblen, hasyms, hbsyms⟩

/-- Settles O58: the ten characters are read back as the record, whose bytes 3 and 4 are its low bits. -/
theorem decrecExpandsToThreeRequests : Obligations.DecrecExpandsToThreeRequests := by
  refine ⟨fun lc t h => ?_, fun lc r => ?_⟩
  · simp [assemble, recordOfText, h]
  · simp only [assemble, recordOfText_recordText, Option.map_some, decrecRequests, decrecCommands, List.map_cons,
      List.map_nil, encode, opcode, encodePayload, recordByte_three, recordByte_four]

/-- Settles O5: each sample word is evaluated. -/
theorem sampleWordsDecode : Obligations.SampleWordsDecode := by
  unfold Obligations.SampleWordsDecode
  decide

/-- Settles O26: a step is the next interaction's, and a word that decodes to a command runs it. -/
theorem stepRunsTheDecodedCommand : Obligations.StepRunsTheDecodedCommand := by
  have hissue {w : Request} {i : Instr} (h : decode w = .ok i) (s : State) : issueRequest w s = exec i s := by
    simp only [issueRequest, h]
  refine ⟨fun s w rest i hp hd => ?_, fun s nbits n i h => ?_⟩
  · rw [step_cons hp]
    exact hissue hd _
  · rw [step_cons rfl]
    exact hissue (decode_of_decodeTableWord h) s

end Sys2Proof.Machine
end

section
/-! SUPPORT. What a completed command leaves in the registers, and what a step with a request pending does, in the terms
of the statements: `OkEcho`, `EmptyText`, `SameInterface` and `afterRequest`. -/

namespace Sys2Proof.Machine

/-- An OK response says OK, echoes its OP and has zero reserved fields (R25, R26). -/
theorem okEcho_complete_mkResponse (op : BitVec 4) (d : BitVec 40) (t : Text) (s : State) :
    OkEcho op (complete (mkResponse .ok op d t) s) :=
  ⟨rspStatus_packRsp _ _ _, rspRsvd0_packRsp _ _ _, rspOp_packRsp _ _ _, rspRsvd1_packRsp _ _ _⟩

/-- A response with the empty text leaves every byte of TEXT 0 (R28). -/
theorem emptyText_complete_mkResponse (st : Status) (op : BitVec 4) (d : BitVec 40) (s : State) :
    EmptyText (complete (mkResponse st op d []) s) :=
  ⟨rfl, fun i => textBuffer_zero [] i.val i.isLt (Nat.zero_le _)⟩

/-- A completion writes the response registers only (R30). -/
theorem sameInterface_complete (r : Response) (s : State) : SameInterface s (complete r s) :=
  ⟨rfl, rfl, rfl⟩

/-- The request word of a command runs the command (R61). -/
theorem issueRequest_encode (i : Instr) (s : State) : issueRequest (encode i) s = exec i s := by
  simp only [issueRequest, decode_encode]

/-- A step that issues an illegal word gives the ILLEGAL response (R152). -/
theorem step_of_illegalWord {s : State} {w : Request} {rest : List HostEvent} (h : s.pending = .issue w :: rest)
    (hill : IllegalWord w) : step s = .next (afterRequest s rest (illegalRspWord w) []) := by
  rw [step_issue h, wordResponse_of_illegal s.names hill]
  rfl

/-- A step that issues a word of a command gives the command's OK response (R30). -/
theorem step_of_decode_ok {s : State} {w : Request} {rest : List HostEvent} {i : Instr}
    (h : s.pending = .issue w :: rest) (hd : decode w = .ok i) :
    step s = .next (afterRequest s rest (okRspWord (opcode i) (commandData i)) (commandText s.names i)) := by
  rw [step_issue h, wordResponse_ok hd, commandResponse_eq]
  rfl

end Sys2Proof.Machine
end

section
/-! SUPPORT. The record of ENC: the padded symbols at their places, as a whole and by code (R81 to R84). -/

namespace Sys2Proof.Machine

/-- ENC completes with its response (R85, R87). -/
theorem exec_enc (mcc mnc : Code) (s : State) : exec (.enc mcc mnc) s = .next (complete (encResponse mcc mnc) s) := rfl

/-- DATA of ENC is the record of the two codes (R85). -/
@[simp] theorem rspData_encResponse (mcc mnc : Code) : rspData (encResponse mcc mnc).word = encodeRecord mcc mnc :=
  rspData_packRsp _ _ _

/-- A slot below the length keeps its symbol, another holds 0xF (R81). -/
theorem padded_eq_ite (i : Nat) (len : BitVec 4) (x : Sym) : padded i len x = if i < len.toNat then x else 0xF := by
  simp only [padded, present, decide_eq_true_eq, filler]

theorem padded_of_lt {i : Nat} {len : BitVec 4} (h : i < len.toNat) (x : Sym) : padded i len x = x := by
  rw [padded_eq_ite, if_pos h]

/-- The normalised code is the list of the padded symbols (R81). -/
theorem toList_normalise (c : Code) : (normalise c).toList = paddedSyms c := by
  simp only [paddedSyms, ← padded_eq_ite]
  rfl

/-- The ten symbols of the record of two codes: the interleaved padded symbols and the suffix 4080 (R82 to R84). -/
theorem recordSyms_encodeRecord (mcc mnc : Code) :
    recordSyms (encodeRecord mcc mnc) =
      #v[padded 1 mcc.len mcc.sym1, padded 0 mcc.len mcc.sym0, padded 2 mnc.len mnc.sym2, padded 2 mcc.len mcc.sym2,
        padded 1 mnc.len mnc.sym1, padded 0 mnc.len mnc.sym0, 0x4, 0x0, 0x8, 0x0] :=
  recordSyms_packSyms _

/-- A packed record as a number: each symbol shifted to its place (R44). -/
theorem packSyms_eq_shifts (v : Vector Sym 10) :
    packSyms v = v[0].setWidth 40 <<< 36 ||| v[1].setWidth 40 <<< 32 ||| v[2].setWidth 40 <<< 28 |||
      v[3].setWidth 40 <<< 24 ||| v[4].setWidth 40 <<< 20 ||| v[5].setWidth 40 <<< 16 ||| v[6].setWidth 40 <<< 12 |||
      v[7].setWidth 40 <<< 8 ||| v[8].setWidth 40 <<< 4 ||| v[9].setWidth 40 := by
  rw [← BitVec.setWidth_eq (packSyms v), packSyms]
  simp only [BitVec.setWidth_append_eq_shiftLeft_setWidth_or, BitVec.shiftLeft_or_distrib, ← BitVec.shiftLeft_add]

/-- The record of two codes as a number, its suffix the number 0x4080 (R89). -/
theorem encodeRecord_eq_shifts (mcc mnc : Code) :
    encodeRecord mcc mnc =
      (padded 1 mcc.len mcc.sym1).setWidth 40 <<< 36 ||| (padded 0 mcc.len mcc.sym0).setWidth 40 <<< 32 |||
        (padded 2 mnc.len mnc.sym2).setWidth 40 <<< 28 ||| (padded 2 mcc.len mcc.sym2).setWidth 40 <<< 24 |||
        (padded 1 mnc.len mnc.sym1).setWidth 40 <<< 20 ||| (padded 0 mnc.len mnc.sym0).setWidth 40 <<< 16 |||
        0x4080#40 := by
  have hsuffix : 0x4080#40 = (0x4#4).setWidth 40 <<< 12 ||| (0x0#4).setWidth 40 <<< 8 |||
    (0x8#4).setWidth 40 <<< 4 ||| (0x0#4).setWidth 40 := by decide
  rw [encodeRecord, packSyms_eq_shifts, hsuffix]
  simp only [BitVec.or_assoc]
  rfl

/-- The five bytes of the record of two codes (R89). -/
theorem recordByte_encodeRecord (mcc mnc : Code) :
    recordByte (encodeRecord mcc mnc) 0 = padded 1 mcc.len mcc.sym1 ++ padded 0 mcc.len mcc.sym0 ∧
    recordByte (encodeRecord mcc mnc) 1 = padded 2 mnc.len mnc.sym2 ++ padded 2 mcc.len mcc.sym2 ∧
    recordByte (encodeRecord mcc mnc) 2 = padded 1 mnc.len mnc.sym1 ++ padded 0 mnc.len mnc.sym0 ∧
    recordByte (encodeRecord mcc mnc) 3 = 0x40#8 ∧ recordByte (encodeRecord mcc mnc) 4 = 0x80#8 := by
  have hbyte3 : 0x4#4 ++ 0x0#4 = 0x40#8 := by decide
  have hbyte4 : 0x8#4 ++ 0x0#4 = 0x80#8 := by decide
  simp only [recordByte, recordSyms_encodeRecord]
  exact ⟨rfl, rfl, rfl, hbyte3, hbyte4⟩

/-- The high nibble of a byte packed from two symbols (R42). -/
theorem extractLsb_append_high_nibble (a b : Sym) : (a ++ b).extractLsb 7 4 = a := by
  simp (disch := omega) only [extractLsb_eq, field_append_high]
  simp only [Nat.reduceSub, Nat.reduceAdd, field_whole]

/-- The places of the MCC in the record: r1, r0, r3 are its padded symbols (R83, R108). -/
theorem selectMcc_encodeRecord (mcc mnc : Code) : selectMcc (recordSyms (encodeRecord mcc mnc)) = paddedSyms mcc := by
  rw [recordSyms_encodeRecord, ← toList_normalise]
  rfl

/-- The places of the MNC in the record: r5, r4, r2 are its padded symbols (R83, R108). -/
theorem selectMnc_encodeRecord (mcc mnc : Code) : selectMnc (recordSyms (encodeRecord mcc mnc)) = paddedSyms mnc := by
  rw [recordSyms_encodeRecord, ← toList_normalise]
  rfl

/-- Two codes that agree on their present slots have the same padded symbols (R81, R88). -/
theorem paddedSyms_of_agreeOnPresent {c d : Code} (h : AgreeOnPresent c d) : paddedSyms d = paddedSyms c := by
  obtain ⟨hlen, h0, h1, h2⟩ := h
  simp only [paddedSyms, ← hlen]
  rw [ite_congr rfl h0 fun _ => rfl, ite_congr rfl h1 fun _ => rfl, ite_congr rfl h2 fun _ => rfl]

/-- A length of 3 or more gives the padded symbols of length 3 (R65, R88). -/
theorem paddedSyms_of_three_le {c : Code} (h : 3 ≤ c.len.toNat) : paddedSyms { c with len := 3 } = paddedSyms c := by
  have hpresent (i : Nat) (hi : i < 3) : i < c.len.toNat := hi.trans_le h
  simp [paddedSyms, hpresent]

/-- ENC does the same for two pairs of codes with the same padded symbols (R87, R88). -/
theorem exec_enc_congr {a b c d : Code} (hac : paddedSyms a = paddedSyms c) (hbd : paddedSyms b = paddedSyms d)
    (s : State) : exec (.enc a b) s = exec (.enc c d) s := by
  have hnormal {x y : Code} (h : paddedSyms x = paddedSyms y) : normalise x = normalise y := by
    rwa [← Vector.toList_inj, toList_normalise, toList_normalise]
  rw [exec_enc, exec_enc, encResponse_congr (hnormal hac) (hnormal hbd)]

end Sys2Proof.Machine
end

section
/-! SUPPORT. DEC of an ENC result: the fillers that ENC puts in are removed again (R90, R102, R103). -/

namespace Sys2Proof.Machine

/-- DEC completes with its response (R105). -/
theorem exec_dec (r : Record) (s : State) : exec (.dec r) s = .next (complete (decResponse r) s) := rfl

/-- DATA of DEC is the two codes of the record (R105). -/
@[simp] theorem rspData_decResponse (r : Record) : rspData (decResponse r).word = decodeData r :=
  rspData_packRsp _ _ _

/-- The MCC operand of a DEC result is the decoded MCC (R104). -/
@[simp] theorem payloadMcc_decodeData (r : Record) : payloadMcc (decodeData r) = codeOfSyms (decodeMcc r) :=
  payloadMcc_packCodes _ _

/-- The MNC operand of a DEC result is the decoded MNC (R104). -/
@[simp] theorem payloadMnc_decodeData (r : Record) : payloadMnc (decodeData r) = codeOfSyms (decodeMnc r) :=
  payloadMnc_packCodes _ _

/-- The length of the code of a list that fits its slots (R104). -/
theorem toNat_len_codeOfSyms {l : List Sym} (h : l.length ≤ 3) : (codeOfSyms l).len.toNat = l.length := by
  rw [codeOfSyms, BitVec.toNat_ofNat, Nat.mod_eq_of_lt (by omega)]

/-- The present symbols of the code of a list that fits its slots are the list (R104). -/
theorem presentSyms_codeOfSyms {l : List Sym} (h : l.length ≤ 3) : presentSyms (codeOfSyms l) = l := by
  rw [presentSyms, toNat_len_codeOfSyms h]
  match l, h with
  | [], _ => rfl
  | [a], _ => rfl
  | [a, b], _ => rfl
  | [a, b, c], _ => rfl

/-- A code has as many present symbols as its length says, and no more than its three slots (R65). -/
theorem presentSyms_length (c : Code) : (presentSyms c).length = min c.len.toNat 3 := List.length_take

/-- The padded symbols of a code are its present symbols, then fillers (R65, R81). -/
theorem paddedSyms_eq_append (c : Code) :
    paddedSyms c = presentSyms c ++ List.replicate (3 - c.len.toNat) filler := by
  simp only [paddedSyms, presentSyms]
  match c.len.toNat with
  | 0 => rfl
  | 1 => rfl
  | 2 => rfl
  | n + 3 => simp

theorem removeFillers_length_le (l : List Sym) : (removeFillers l).length ≤ l.length := List.length_filter_le _ _

/-- Filler removal undoes the padding (R103). -/
theorem removeFillers_paddedSyms (c : Code) : removeFillers (paddedSyms c) = removeFillers (presentSyms c) := by
  simp [paddedSyms_eq_append, removeFillers]

/-- Filler removal leaves a list without fillers as it is (R103). -/
theorem removeFillers_eq_self {l : List Sym} (h : filler ∉ l) : removeFillers l = l := by
  rw [removeFillers, List.filter_eq_self]
  intro x hx
  exact decide_eq_true fun hfiller => h (hfiller ▸ hx)

/-- Filler removal shortens a list with a filler (R103). -/
theorem removeFillers_length_lt {l : List Sym} (h : filler ∈ l) : (removeFillers l).length < l.length :=
  List.length_filter_lt_length_iff_exists.mpr ⟨filler, h, by simp⟩

/-- The decoded MCC of an ENC result: the present symbols of the MCC without the fillers among them (R90). -/
theorem decodeMcc_encodeRecord (mcc mnc : Code) :
    decodeMcc (encodeRecord mcc mnc) = removeFillers (presentSyms mcc) := by
  rw [decodeMcc, selectMcc_encodeRecord, removeFillers_paddedSyms]

/-- The decoded MNC of an ENC result: the present symbols of the MNC without the fillers among them (R90). -/
theorem decodeMnc_encodeRecord (mcc mnc : Code) :
    decodeMnc (encodeRecord mcc mnc) = removeFillers (presentSyms mnc) := by
  rw [decodeMnc, selectMnc_encodeRecord, removeFillers_paddedSyms]

/-- No digit is the filler (R11). -/
theorem filler_not_mem_of_isDigit {l : List Sym} (h : ∀ x ∈ l, isDigit x = true) : filler ∉ l :=
  fun hmem => absurd (h filler hmem) (by decide)

/-- Filler removal keeps the length and the symbols of a digit code (R90). -/
theorem codeOfSyms_removeFillers_of_digitCode {c : Code} (h : DigitCode c) :
    (codeOfSyms (removeFillers (presentSyms c))).len = c.len ∧
      presentSyms (codeOfSyms (removeFillers (presentSyms c))) = presentSyms c := by
  obtain ⟨hlen, hdigits⟩ := h
  rw [removeFillers_eq_self (filler_not_mem_of_isDigit hdigits)]
  refine ⟨BitVec.eq_of_toNat_eq ?_, presentSyms_codeOfSyms (presentSyms_length_le c)⟩
  rw [toNat_len_codeOfSyms (presentSyms_length_le c), presentSyms_length, Nat.min_eq_left hlen]

/-- Filler removal shortens a code that holds a present 0xF (R90). -/
theorem len_codeOfSyms_removeFillers_ne {c : Code} (hlen : c.len.toNat ≤ 3) (h : filler ∈ presentSyms c) :
    (codeOfSyms (removeFillers (presentSyms c))).len ≠ c.len := by
  have hlt := removeFillers_length_lt h
  have hpresent := presentSyms_length c
  rw [← BitVec.toNat_ne_iff_ne, toNat_len_codeOfSyms (by omega)]
  omega

end Sys2Proof.Machine
end

section
/-! SUPPORT. The host's reading of the command line: positional arguments, their pairs, and a table value
(R168, R171 to R173, R176). -/

namespace Sys2Proof.Machine

/-- A conversion that succeeds on each member of a list succeeds on the list. -/
theorem mapM_eq_some_map {α β : Type} {f : α → Option β} {g : α → β} {l : List α} (h : ∀ a ∈ l, f a = some (g a)) :
    l.mapM f = some (l.map g) := by
  induction l with
  | nil => rfl
  | cons a l ih =>
    rw [List.forall_mem_cons] at h
    simp [h.1, ih h.2]

/-- A token that does not start with '-' is no flag (R176, R177). -/
theorem not_flag_of_startsDash_eq_false {a : Text} (h : startsDash a = false) :
    isTableFlag a = false ∧ isHelpFlag a = false := by
  have hne {flag : Text} (hflag : startsDash flag = true) : a ≠ flag := by
    rintro rfl
    simp [h] at hflag
  simp [isTableFlag, isHelpFlag, hne (flag := txt "-p") (by decide), hne (flag := txt "--plmn") (by decide),
    hne (flag := txt "-h") (by decide), hne (flag := txt "--help") (by decide)]

/-- Arguments none of which starts with '-' are positional (R168). -/
theorem scanArgs_of_no_dash {args : List Text} (h : ∀ a ∈ args, startsDash a = false) :
    scanArgs args = ⟨args, [], false, []⟩ := by
  induction args with
  | nil => rfl
  | cons a rest ih =>
    rw [List.forall_mem_cons] at h
    obtain ⟨hdash, hrest⟩ := h
    obtain ⟨htable, hhelp⟩ := not_flag_of_startsDash_eq_false hdash
    cases rest with
    | nil => simp [scanArgs, htable, hhelp, hdash]
    | cons v rest => simp [scanArgs, htable, hhelp, hdash, ih hrest]

/-- A table flag and a token that does not start with '-' are a table value (R176). -/
theorem scanArgs_table {flag value : Text} (hflag : isTableFlag flag = true) (h : startsDash value = false) :
    scanArgs [flag, value] = ⟨[], [value], false, []⟩ := by
  simp [scanArgs, hflag, h]

/-- Pairs written one after the other are read back as the pairs (R168). -/
theorem pairUp_flatMap (ps : List (Text × Text)) : pairUp (ps.flatMap fun p => [p.1, p.2]) = some ps := by
  induction ps with
  | nil => rfl
  | cons p ps ih => simp [pairUp, ih]

/-- The requests of pairs that are all converted (R69, R168). -/
theorem pairRequests_of_pairs {lc : Lowercase} {ps : List (Text × Text)} {request : Text × Text → Request}
    (h : ∀ p ∈ ps, encRequest lc p.1 p.2 = some (request p)) :
    pairRequests lc (ps.flatMap fun p => [p.1, p.2]) = .ok (ps.map request) := by
  simp only [pairRequests, pairUp_flatMap, mapM_eq_some_map h]

/-- The payload of a table string is what stands after its last comma, or the whole of it (R171). -/
theorem tablePayload_append {before payload : Text} (hbefore : before = [] ∨ before.getLast? = some (chr ','))
    (h : chr ',' ∉ payload) : tablePayload (before ++ payload) = payload := by
  have hpayload : ∀ c ∈ payload.reverse, decide (c ≠ chr ',') = true := fun c hc =>
    decide_eq_true fun hcomma => h (hcomma ▸ List.mem_reverse.mp hc)
  have hstop : before.reverse.takeWhile (fun c => decide (c ≠ chr ',')) = [] := by
    rcases hbefore with rfl | hlast
    · rfl
    · obtain ⟨init, rfl⟩ := List.getLast?_eq_some_iff.mp hlast
      simp
  rw [tablePayload, List.reverse_append, List.takeWhile_append_of_pos hpayload, hstop, List.append_nil,
    List.reverse_reverse]

/-- The first chunk of a payload is its first ten characters (R173). -/
theorem chunks_append {chunk p : Text} (h : chunk.length = 10) : chunks (chunk ++ p) = chunk :: chunks p := by
  have hcount : (chunk ++ p).length / 10 = p.length / 10 + 1 := by
    rw [List.length_append, h]
    omega
  have hrest (j : Nat) : (chunk ++ p).drop (10 * (j + 1)) = p.drop (10 * j) := by
    rw [show 10 * (j + 1) = chunk.length + 10 * j by omega, List.drop_length_add_append]
  have hfirst : (chunk ++ p).take 10 = chunk := by rw [← h, List.take_left]
  rw [chunks, hcount, List.range_succ_eq_map]
  simp [hrest, hfirst, chunks]

theorem recordText_length (r : Record) : (recordText r).length = 10 := by
  simp [recordText]

/-- A payload of records has ten characters for each record (R167). -/
theorem flatMap_recordText_length (rs : List Record) : (rs.flatMap recordText).length = 10 * rs.length := by
  simp [List.length_flatMap, recordText_length, Nat.mul_comm]

/-- The chunks of a payload of records are the records' characters (R173). -/
theorem chunks_flatMap_recordText (rs : List Record) : chunks (rs.flatMap recordText) = rs.map recordText := by
  induction rs with
  | nil => rfl
  | cons r rs ih => rw [List.flatMap_cons, chunks_append (recordText_length r), ih, List.map_cons]

/-- No symbol is written as a comma (R167). -/
theorem comma_not_mem_flatMap_recordText (rs : List Record) : chr ',' ∉ rs.flatMap recordText := by
  have hsym (x : Sym) : charOf x ≠ chr ',' := by revert x; decide
  simp only [List.mem_flatMap, recordText, symsText, List.mem_map]
  rintro ⟨r, -, x, -, hx⟩
  exact hsym x hx

/-- A table string of whole records, with or without a preamble, is read as the records (R171 to R173). -/
theorem tableRecords_of_records (lc : Lowercase) {before : Text} {rs : List Record}
    (hbefore : before = [] ∨ before.getLast? = some (chr ',')) (hne : rs ≠ []) :
    tableRecords lc (before ++ rs.flatMap recordText) = .ok rs := by
  have hlength : payloadLengthOk (rs.flatMap recordText) = true := by
    have hpos := List.length_pos_iff.mpr hne
    simp only [payloadLengthOk, flatMap_recordText_length, decide_eq_true_eq]
    omega
  have hread : (rs.map recordText).mapM (recordOfText lc) = some rs := by
    have hrecord : ∀ r ∈ rs, (recordOfText lc ∘ recordText) r = some (id r) := fun r _ => recordOfText_recordText lc r
    rw [List.mapM_map, mapM_eq_some_map hrecord, List.map_id]
  simp only [tableRecords, tablePayload_append hbefore (comma_not_mem_flatMap_recordText rs), hlength, if_true,
    chunks_flatMap_recordText, hread]

end Sys2Proof.Machine
end

section
/-! SUPPORT. An invocation whose checks pass: the responses it gets and what it prints (R169, R173 to R175, R179). -/

namespace Sys2Proof.Machine

/-- The responses among recorded whole responses are the responses (R199). -/
theorem observedResponses_map_response (rs : List Response) : observedResponses (rs.map .response) = rs := by
  simp [observedResponses, List.filterMap_map]

/-- Asking a block gets the response of each word, in order (R49, R165). -/
theorem askBlock_eq (ws : List Request) (s : State) :
    ∃ t, askBlock ws s = some (ws.map (wordResponse s.names), t) := by
  obtain ⟨t, hrun, -, -, hobserved⟩ :=
    run_askScript (s := { s with pending := askScript ws ++ s.pending }) (rest := s.pending) rfl
  refine ⟨t, ?_⟩
  simp only [askBlock, hrun, hobserved, List.drop_left, observedResponses_map_response]

/-- Running a plan prints its output for the responses of its requests (R179). -/
theorem runPlan_eq (p : Plan) (s : State) :
    ∃ t, runPlan p s = (.printed (planOutput p ((planRequests p).map (wordResponse s.names))), t) := by
  obtain ⟨t, hask⟩ := askBlock_eq (planRequests p) s
  exact ⟨t, by simp only [runPlan, hask]⟩

/-- An invocation with arguments, without help, and with a plan runs the plan (R179). -/
theorem hostMain_of_plan {hc : HostConfig} {args : List Text} {p : Plan} (hne : args ≠ [])
    (hhelp : (scanArgs args).help = false) (hplan : planOf hc.lowercase (scanArgs args) = .ok p) (s : State) :
    hostMain hc args s = runPlan p s := by
  simp [hostMain, hne, hhelp, hplan]

/-- The AT line of at least one record (R169). -/
theorem atLine_of_ne_nil {records : List Record} (h : records ≠ []) :
    atLine records = txt "AT+CRSM=214,28512,0,0," ++ decimal (5 * records.length) ++ txt "," ++
      records.flatMap recordText ++ lf := by
  have hbytes : 10 * records.length / 2 = 5 * records.length := by omega
  simp only [atLine, if_neg h, flatMap_recordText_length, hbytes]

/-- A plan without tables prints the AT line of its responses (R169). -/
theorem planOutput_encodes (ws : List Request) (answer : Request → Response) :
    planOutput ⟨ws, []⟩ (ws.map answer) = atLine (ws.map fun w => rspData (answer w).word) := by
  have htake : (ws.map answer).take ws.length = ws.map answer := List.take_of_length_le (by simp)
  simp [planOutput, reports, htake, Function.comp_def]

/-- A plan of one table alone prints its report (R175). -/
theorem planOutput_table {rs : List Record} {answers : List Response} (h : answers.length = 3 * rs.length) :
    planOutput ⟨[], [rs]⟩ answers = reportLines 1 answers := by
  simp [planOutput, reports, atLine, ← h]

/-- Pairs that are all converted print the AT line of the DATA of their requests' responses (R169). -/
theorem hostMain_pairs {hc : HostConfig} {ps : List (Text × Text)} {request : Text × Text → Request} (hne : ps ≠ [])
    (hdash : ∀ p ∈ ps, startsDash p.1 = false ∧ startsDash p.2 = false)
    (hrequest : ∀ p ∈ ps, encRequest hc.lowercase p.1 p.2 = some (request p)) (s : State) :
    ∃ t, hostMain hc (ps.flatMap fun p => [p.1, p.2]) s =
      (.printed (atLine (ps.map fun p => rspData (wordResponse s.names (request p)).word)), t) := by
  have hargs : ∀ a ∈ ps.flatMap fun p => [p.1, p.2], startsDash a = false := by
    simp only [List.mem_flatMap, List.mem_cons, List.not_mem_nil, or_false]
    rintro a ⟨p, hp, rfl | rfl⟩
    · exact (hdash p hp).1
    · exact (hdash p hp).2
  have hscan := scanArgs_of_no_dash hargs
  have hplan : planOf hc.lowercase (scanArgs (ps.flatMap fun p => [p.1, p.2])) = .ok ⟨ps.map request, []⟩ := by
    simp only [hscan, planOf, pairRequests_of_pairs hrequest]
    rfl
  obtain ⟨t, hrun⟩ := runPlan_eq ⟨ps.map request, []⟩ s
  refine ⟨t, ?_⟩
  have hargsNe : (ps.flatMap fun p => [p.1, p.2]) ≠ [] := by
    obtain ⟨p, ps, rfl⟩ := List.exists_cons_of_ne_nil hne
    exact List.cons_ne_nil _ _
  have hrequests : planRequests ⟨ps.map request, []⟩ = ps.map request := List.append_nil _
  rw [hostMain_of_plan hargsNe (by rw [hscan]) hplan, hrun, hrequests, planOutput_encodes, List.map_map]
  rfl

/-- The report line of a record with number `j`, as the host prints it from the block's responses (R174). -/
def recordLine (names : OpenNames) (j : Nat) (r : Record) : Text :=
  reportLine j (commandResponse names (.dec r)) (commandResponse names (.capl (recordByte r 3)))
    (commandResponse names (.capg (recordByte r 4)))

/-- The report of consecutive records is their lines, numbered on (R175). -/
theorem reportLines_of_records (names : OpenNames) (rs : List Record) (k : Nat) :
    reportLines (k + 1) ((rs.flatMap decrecRequests).map (wordResponse names)) =
      (rs.zipIdx k).flatMap fun x => recordLine names (x.2 + 1) x.1 := by
  induction rs generalizing k with
  | nil => rfl
  | cons r rs ih =>
    simp only [List.flatMap_cons, decrecRequests, decrecCommands, List.map_cons, List.map_nil, List.cons_append,
      List.nil_append, wordResponse_ok (decode_encode _), reportLines, List.zipIdx_cons, recordLine] at ih ⊢
    rw [ih]

/-- A table of whole records, with or without a preamble, prints one line for each record (R173 to R175). -/
theorem hostMain_table (hc : HostConfig) {flag before : Text} {rs : List Record} (hflag : isTableFlag flag = true)
    (hbefore : before = [] ∨ before.getLast? = some (chr ',')) (hne : rs ≠ [])
    (hdash : startsDash (before ++ rs.flatMap recordText) = false) (s : State) :
    ∃ t, hostMain hc [flag, before ++ rs.flatMap recordText] s =
      (.printed (rs.zipIdx.flatMap fun x => recordLine s.names (x.2 + 1) x.1), t) := by
  have hscan := scanArgs_table hflag hdash
  have hplan : planOf hc.lowercase (scanArgs [flag, before ++ rs.flatMap recordText]) = .ok ⟨[], [rs]⟩ := by
    simp only [hscan, planOf, List.mapM_cons, List.mapM_nil, tableRecords_of_records hc.lowercase hbefore hne]
    rfl
  have hlength : ((rs.flatMap decrecRequests).map (wordResponse s.names)).length = 3 * rs.length := by
    simp [List.length_flatMap, decrecRequests, decrecCommands, Nat.mul_comm]
  obtain ⟨t, hrun⟩ := runPlan_eq ⟨[], [rs]⟩ s
  refine ⟨t, ?_⟩
  have hrequests : planRequests ⟨[], [rs]⟩ = rs.flatMap decrecRequests := by simp [planRequests]
  rw [hostMain_of_plan (List.cons_ne_nil _ _) (by rw [hscan]) hplan, hrun, hrequests, planOutput_table hlength,
    ← reportLines_of_records]

end Sys2Proof.Machine
end

section
/-! SUPPORT. Digit strings as symbols, and the report line of a record that ENC writes (R80, R84, R90). -/

namespace Sys2Proof.Machine

/-- The symbols of a text of decimal digits (R80, R166). -/
def digitSyms (x : Text) : List Sym := x.map fun c => BitVec.ofNat 4 (c.toNat - 48)

@[simp] theorem digitSyms_length (x : Text) : (digitSyms x).length = x.length := List.length_map _

/-- A digit character's symbol is a digit, and is written as the character (R167). -/
theorem digit_of_char (c : Byte) (h : 48 ≤ c.toNat ∧ c.toNat ≤ 57) :
    isDigit (BitVec.ofNat 4 (c.toNat - 48)) = true ∧ charOf (BitVec.ofNat 4 (c.toNat - 48)) = c := by
  revert c
  decide

/-- A digit text is the text of its symbols (R167). -/
theorem symsText_digitSyms {x : Text} (h : DigitText x) : symsText (digitSyms x) = x := by
  rw [symsText, digitSyms, List.map_map]
  exact (List.map_congr_left fun c hc => (digit_of_char c (h c hc)).2).trans (List.map_id x)

/-- The symbols of a digit text hold no filler (R11). -/
theorem filler_not_mem_digitSyms {x : Text} (h : DigitText x) : filler ∉ digitSyms x := by
  refine filler_not_mem_of_isDigit ?_
  simp only [digitSyms, List.forall_mem_map]
  exact fun c hc => (digit_of_char c (h c hc)).1

/-- A digit text does not start with '-' (R176). -/
theorem startsDash_of_digitText {x : Text} (h : DigitText x) : startsDash x = false := by
  cases x with
  | nil => rfl
  | cons c x =>
    have hc := h c List.mem_cons_self
    have hne : c ≠ chr '-' := by
      rintro rfl
      revert hc
      decide
    simp [startsDash, hne]

/-- A digit text of at most 15 characters is read as the code of its symbols (R69). -/
theorem codeOfText_of_digitText (lc : Lowercase) {x : Text} (h : DigitText x) (hlen : x.length ≤ 15) :
    codeOfText lc x = some (codeOfSyms (digitSyms x)) := by
  rw [← codeOfText_symsText lc ((digitSyms_length x).trans_le hlen), symsText_digitSyms h]

theorem decodeMcc_length_le (r : Record) : (decodeMcc r).length ≤ 3 := removeFillers_length_le _

theorem decodeMnc_length_le (r : Record) : (decodeMnc r).length ≤ 3 := removeFillers_length_le _

/-- The texts of a DEC response are those of the decoded codes (R104, R167). -/
theorem decodedTexts_decResponse (r : Record) :
    decodedTexts (decResponse r) = (symsText (decodeMcc r), symsText (decodeMnc r)) := by
  simp only [decodedTexts, rspData_decResponse, payloadMcc_decodeData, payloadMnc_decodeData, codeText,
    presentSyms_codeOfSyms (decodeMcc_length_le r), presentSyms_codeOfSyms (decodeMnc_length_le r)]

/-- The technology texts of the suffix 4080 (R129, R131). -/
theorem responseText_suffix (names : OpenNames) :
    responseText (commandResponse names (.capl 0x40#8)) = txt "E-UTRAN in WB-S1, NB-S1 modes" ∧
      responseText (commandResponse names (.capg 0x80#8)) = txt "GSM + EC-GSM-IoT" := by
  have hlte : commandText names (.capl 0x40#8) = txt "E-UTRAN in WB-S1, NB-S1 modes" := rfl
  have hgsm : commandText names (.capg 0x80#8) = txt "GSM + EC-GSM-IoT" := rfl
  rw [commandResponse_eq, commandResponse_eq, hlte, hgsm]
  exact ⟨responseText_mkResponse _ _ _ _ (by decide), responseText_mkResponse _ _ _ _ (by decide)⟩

/-- The record ENC writes for a pair of digit texts (R69, R84). -/
def pairRecord (p : Text × Text) : Record := encodeRecord (codeOfSyms (digitSyms p.1)) (codeOfSyms (digitSyms p.2))

/-- DATA of the response to a pair's request is the pair's record (R85). -/
theorem rspData_pair (names : OpenNames) (p : Text × Text) :
    rspData (wordResponse names
      (encode (.enc (codeOfSyms (digitSyms p.1)) (codeOfSyms (digitSyms p.2))))).word = pairRecord p := by
  rw [wordResponse_ok (decode_encode _)]
  exact rspData_encResponse _ _

/-- The decoded codes of a pair's record are written as the pair (R90). -/
theorem decodedTexts_pairRecord {p : Text × Text} (hmcc : DigitText p.1) (hmccLen : p.1.length ≤ 3)
    (hmnc : DigitText p.2) (hmncLen : p.2.length ≤ 3) : decodedTexts (decResponse (pairRecord p)) = p := by
  rw [decodedTexts_decResponse, pairRecord, decodeMcc_encodeRecord, decodeMnc_encodeRecord,
    presentSyms_codeOfSyms ((digitSyms_length _).trans_le hmccLen),
    presentSyms_codeOfSyms ((digitSyms_length _).trans_le hmncLen),
    removeFillers_eq_self (filler_not_mem_digitSyms hmcc), removeFillers_eq_self (filler_not_mem_digitSyms hmnc),
    symsText_digitSyms hmcc, symsText_digitSyms hmnc]

/-- The report line of a pair's record: the pair, and the technology texts of the suffix (R90, R174). -/
theorem recordLine_pairRecord (names : OpenNames) (j : Nat) {p : Text × Text} (hmcc : DigitText p.1)
    (hmccLen : p.1.length ≤ 3) (hmnc : DigitText p.2) (hmncLen : p.2.length ≤ 3) :
    recordLine names j (pairRecord p) = decimal j ++ txt ". MCC: " ++ p.1 ++ txt " MNC: " ++ p.2 ++
      txt " RAT(s): E-UTRAN in WB-S1, NB-S1 modes, GSM + EC-GSM-IoT" ++ [0x0A#8] := by
  obtain ⟨-, -, -, hbyte3, hbyte4⟩ := recordByte_encodeRecord (codeOfSyms (digitSyms p.1)) (codeOfSyms (digitSyms p.2))
  rw [← pairRecord] at hbyte3 hbyte4
  obtain ⟨hlte, hgsm⟩ := responseText_suffix names
  have htail : txt " RAT(s): " ++ txt "E-UTRAN in WB-S1, NB-S1 modes" ++ txt ", " ++ txt "GSM + EC-GSM-IoT" =
      txt " RAT(s): E-UTRAN in WB-S1, NB-S1 modes, GSM + EC-GSM-IoT" := rfl
  have hcodes : decodedTexts (commandResponse names (.dec (pairRecord p))) = p :=
    decodedTexts_pairRecord hmcc hmccLen hmnc hmncLen
  simp only [recordLine, reportLine, hbyte3, hbyte4, hlte, hgsm, hcodes, lf, ← htail, List.append_assoc]

end Sys2Proof.Machine
end

section
/-! The statements of 41_encoder.md. -/

namespace Sys2Proof.Machine

/-- Settles O16: DEC reads the padded symbols back, and removing the fillers leaves the present ones exactly when none
of them is a filler. -/
theorem encThenDecReturnsTheCodes : Obligations.EncThenDecReturnsTheCodes := by
  intro mcc mnc s
  refine ⟨_, _, exec_enc mcc mnc s, exec_dec _ _, ?_⟩
  simp only [complete_rspWord, rspData_encResponse, rspData_decResponse, payloadMcc_decodeData, payloadMnc_decodeData,
    decodeMcc_encodeRecord, decodeMnc_encodeRecord]
  refine ⟨fun hmcc hmnc => ?_, len_codeOfSyms_removeFillers_ne, len_codeOfSyms_removeFillers_ne⟩
  obtain ⟨hmccLen, hmccSyms⟩ := codeOfSyms_removeFillers_of_digitCode hmcc
  obtain ⟨hmncLen, hmncSyms⟩ := codeOfSyms_removeFillers_of_digitCode hmnc
  exact ⟨hmccLen, hmncLen, hmccSyms, hmncSyms⟩

/-- Settles O55: the AT line holds the records of the pairs after its last comma, and each is reported as its pair. -/
theorem encodedPairsDecodeBack : Obligations.EncodedPairsDecodeBack := by
  intro hc ps s hne hps
  have hdash : ∀ p ∈ ps, startsDash p.1 = false ∧ startsDash p.2 = false := fun p hp =>
    have ⟨hmcc, _, hmnc, _⟩ := hps p hp
    ⟨startsDash_of_digitText hmcc, startsDash_of_digitText hmnc⟩
  have hrequest : ∀ p ∈ ps, encRequest hc.lowercase p.1 p.2 =
      some (encode (.enc (codeOfSyms (digitSyms p.1)) (codeOfSyms (digitSyms p.2)))) := fun p hp =>
    have ⟨hmcc, hmccLen, hmnc, hmncLen⟩ := hps p hp
    encRequest_of_codes (codeOfText_of_digitText _ hmcc (hmccLen.trans (by decide)))
      (codeOfText_of_digitText _ hmnc (hmncLen.trans (by decide)))
  obtain ⟨t, hencode⟩ := hostMain_pairs hne hdash hrequest s
  have hrecordsNe : ps.map pairRecord ≠ [] := by simpa using hne
  simp only [rspData_pair, atLine_of_ne_nil hrecordsNe] at hencode
  obtain ⟨u, hdecode⟩ := hostMain_table hc (flag := txt "-p")
    (before := txt "AT+CRSM=214,28512,0,0," ++ decimal (5 * (ps.map pairRecord).length) ++ txt ",")
    (by decide) (.inr List.getLast?_concat) hrecordsNe rfl t
  refine ⟨_, t, u, hencode, hdecode.trans ?_⟩
  rw [List.zipIdx_map, List.flatMap_map]
  refine congrArg (fun out => (HostResult.printed out, u)) (List.flatMap_congr fun x hx => ?_)
  obtain ⟨hmcc, hmccLen, hmnc, hmncLen⟩ := hps x.1 (List.fst_mem_of_mem_zipIdx hx)
  exact recordLine_pairRecord t.names (x.2 + 1) hmcc hmccLen hmnc hmncLen

/-- Settles O7, by the ten symbols of the record. -/
theorem encWritesTheInterleavedRecord : Obligations.EncWritesTheInterleavedRecord := by
  intro mcc mnc s
  simp only [← padded_eq_ite]
  refine ⟨_, exec_enc mcc mnc s, ?_, okEcho_complete_mkResponse _ _ _ s, emptyText_complete_mkResponse _ _ _ s, rfl,
    sameInterface_complete _ s⟩
  rw [complete_rspWord, rspData_encResponse, recordSyms_encodeRecord]

/-- Settles O8: the word is illegal by R67 or decodes to ENC of its fields; the example's response is evaluated. -/
theorem encRequestDoesWhatR85Says : Obligations.EncRequestDoesWhatR85Says := by
  intro w rest s hp hop
  simp only [← padded_eq_ite]
  refine ⟨fun hill => step_of_illegalWord hp ?_, fun hrsvd hlow => ?_, fun hw => ?_⟩
  · exact .inr (hill.imp_right fun hlow => .inl ⟨hop, hlow⟩)
  · have hd := (decode_eq_enc_iff w _ _).mpr ⟨⟨hop, hrsvd, hlow⟩, rfl, rfl⟩
    obtain ⟨hfields, -⟩ := operandsAreTheFieldsOfTheWord w
    obtain ⟨hmcc, hmnc⟩ := hfields _ _ hd
    rw [step_of_decode_ok hp hd, hmcc, hmnc]
    rfl
  · subst hw
    exact step_of_decode_ok hp (i := .enc ⟨3, 1, 0, 3⟩ ⟨4, 1, 0, 3⟩) rfl

/-- Settles O9: the symbols stand side by side in the bytes, and shifted in the number. -/
theorem encDataByBytesAndAsANumber : Obligations.EncDataByBytesAndAsANumber := by
  intro mcc mnc s
  simp only [← padded_eq_ite]
  refine ⟨_, exec_enc mcc mnc s, ?_⟩
  simp only [complete_rspWord, rspData_encResponse]
  obtain ⟨hbyte0, hbyte1, hbyte2, hbyte3, hbyte4⟩ := recordByte_encodeRecord mcc mnc
  exact ⟨hbyte0, hbyte1, hbyte2, hbyte3, hbyte4, encodeRecord_eq_shifts mcc mnc⟩

/-- Settles O10: an absent slot is padded, and ENC reads the padded symbols alone. -/
theorem encCornerCases : Obligations.EncCornerCases := by
  intro mcc mnc s
  refine ⟨_, exec_enc mcc mnc s, ?_⟩
  obtain ⟨-, hbyte1, -⟩ := recordByte_encodeRecord mcc mnc
  simp only [complete_rspWord, rspData_encResponse, recordSyms_encodeRecord, hbyte1, extractLsb_append_high_nibble]
  refine ⟨fun h => ?_, fun h => ?_, fun h => ?_, fun h => ?_, fun h => ?_, fun h => ?_,
    fun h => exec_enc_congr (paddedSyms_of_three_le h) rfl s, fun h => exec_enc_congr rfl (paddedSyms_of_three_le h) s,
    ?_, fun c d hc hd => exec_enc_congr (paddedSyms_of_agreeOnPresent hc) (paddedSyms_of_agreeOnPresent hd) s,
    rfl, rfl, rfl, rfl⟩
  iterate 6 · simp [padded_eq_ite, h]
  · refine ⟨encode (.enc ⟨3, 1, 0, 4⟩ ⟨4, 1, 0, 6⟩), encode (.enc ⟨3, 1, 0, 3⟩ ⟨4, 1, 0, 3⟩), by decide, by decide,
      ?_⟩
    rw [issueRequest_encode, issueRequest_encode]
    exact exec_enc_congr rfl rfl s

/-- Settles O11: a present slot is copied, and ENC reads the padded symbols alone. -/
theorem encCopiesAnyPresentSymbol : Obligations.EncCopiesAnyPresentSymbol := by
  intro mcc mnc s
  refine ⟨_, exec_enc mcc mnc s, rspStatus_packRsp _ _ _, ?_⟩
  simp only [complete_rspWord, rspData_encResponse, recordSyms_encodeRecord]
  exact ⟨fun h => padded_of_lt h _, fun h => padded_of_lt h _, fun h => padded_of_lt h _, fun h => padded_of_lt h _,
    fun h => padded_of_lt h _, fun h => padded_of_lt h _, fun _ _ hmcc hmnc => exec_enc_congr hmcc hmnc s⟩

end Sys2Proof.Machine
end

section
/-! SUPPORT. The symbols of a record that DEC reads, and the codes it makes of them (R102 to R106). -/

namespace Sys2Proof.Machine

/-- A field of a field of a word is a field of the word. -/
theorem field_of_field {n : Nat} (v : BitVec n) {lo len lo' len' : Nat} (h : lo' + len' ≤ len) :
    (v.extractLsb' lo len).extractLsb' lo' len' = v.extractLsb' (lo + lo') len' := by
  ext i hi
  simp only [BitVec.getElem_extractLsb', BitVec.getLsbD_extractLsb', show lo' + i < len by omega, decide_true,
    Bool.true_and, Nat.add_assoc]

/-- Symbol `i` of a record is the nibble that ends `4 i` bits below the top of its field (R44). -/
theorem getElem_recordSyms (r : Record) (i : Nat) (h : i < 10) : (recordSyms r)[i] = r.extractLsb' (36 - 4 * i) 4 := by
  interval_cases i <;> rfl

/-- The symbols r0..r5 of a record lie in its bits 39..16 (R44). -/
theorem getElem_recordSyms_congr {r r' : Record} (h : r'.extractLsb 39 16 = r.extractLsb 39 16) {i : Nat} (hi : i < 6) :
    (recordSyms r')[i] = (recordSyms r)[i] := by
  have hfield (q : Record) : (q.extractLsb 39 16).extractLsb' (20 - 4 * i) 4 = q.extractLsb' (36 - 4 * i) 4 := by
    rw [extractLsb_eq, field_of_field q (by omega), show 16 + (20 - 4 * i) = 36 - 4 * i by omega]
  rw [getElem_recordSyms, getElem_recordSyms, ← hfield r, ← hfield r', h]

/-- The symbols of the record that a DEC request carries are fields of the word (R44, R63). -/
theorem getElem_recordSyms_reqPayload (w : Request) (i : Nat) (h : i < 10) :
    (recordSyms (reqPayload w))[i] = w.extractLsb' (36 - 4 * i) 4 := by
  rw [getElem_recordSyms, reqPayload, extractLsb_eq, field_of_field w (by omega), Nat.zero_add]

/-- The decoded MCC: the symbols r1, r0, r3 that are not 0xF (R102, R103). -/
theorem decodeMcc_eq (r : Record) :
    decodeMcc r = [(recordSyms r)[1], (recordSyms r)[0], (recordSyms r)[3]].filter (fun x => x ≠ 0xF) := rfl

/-- The decoded MNC: the symbols r5, r4, r2 that are not 0xF (R102, R103). -/
theorem decodeMnc_eq (r : Record) :
    decodeMnc r = [(recordSyms r)[5], (recordSyms r)[4], (recordSyms r)[2]].filter (fun x => x ≠ 0xF) := rfl

/-- Filler removal leaves three symbols that are no fillers as they are (R103). -/
theorem removeFillers_of_ne_filler {a b c : Sym} (ha : a ≠ filler) (hb : b ≠ filler) (hc : c ≠ filler) :
    removeFillers [a, b, c] = [a, b, c] :=
  removeFillers_eq_self (by simp [ha.symm, hb.symm, hc.symm])

/-- Records that agree on r0..r5 have the same DATA: r6..r9 are not read (R107). -/
theorem decodeData_congr {r r' : Record} (h : r'.extractLsb 39 16 = r.extractLsb 39 16) :
    decodeData r' = decodeData r := by
  simp (disch := decide) only [decodeData, decodeMcc_eq, decodeMnc_eq, getElem_recordSyms_congr h]

/-- The low byte of a DEC result is 0 (R104). -/
theorem extractLsb_decodeData_low (r : Record) : (decodeData r).extractLsb 7 0 = 0x00#8 := by
  simp (disch := omega) only [decodeData, packCodes, extractLsb_eq, field_append_low]
  rfl

/-- A DEC result is the payload of a legal ENC request (R104). -/
theorem decode_enc_decodeData (r : Record) :
    decode (0x1#4 ++ 0x0#4 ++ decodeData r) = .ok (.enc (codeOfSyms (decodeMcc r)) (codeOfSyms (decodeMnc r))) :=
  decode_encode (.enc _ _)

end Sys2Proof.Machine
end

section
/-! SUPPORT. ENC of a DEC result: the fillers that DEC takes out come back behind the other symbols (R109). -/

namespace Sys2Proof.Machine

/-- The padded symbols of the code of a list are the list, then fillers (R81, R104). -/
theorem paddedSyms_codeOfSyms {l : List Sym} (h : l.length ≤ 3) : paddedSyms (codeOfSyms l) = slots l := by
  have hfillers : [filler, filler, filler] = List.replicate 3 filler := rfl
  rw [paddedSyms_eq_append, presentSyms_codeOfSyms h, toNat_len_codeOfSyms h, slots, List.take_append,
    List.take_of_length_le h, hfillers, List.take_replicate, Nat.min_eq_left (Nat.sub_le _ _)]

/-- A code without an internal filler is its other symbols, then fillers (R109). -/
theorem slots_removeFillers {a b c : Sym} (h : NoInternalFiller a b c) :
    slots (removeFillers [a, b, c]) = [a, b, c] := by
  obtain ⟨hab, hbc⟩ := h
  by_cases hc : c = filler
  · by_cases hb : b = filler
    · by_cases ha : a = filler <;> simp [slots, removeFillers, ha, hb, hc]
    · have ha : a ≠ filler := fun ha => hb (hab ha)
      simp [slots, removeFillers, ha, hb, hc]
  · have hb : b ≠ filler := fun hb => hc (hbc hb)
    have ha : a ≠ filler := fun ha => hb (hab ha)
    rw [removeFillers_of_ne_filler ha hb hc]
    rfl

/-- The record of two codes from their padded symbols (R83, R84). -/
theorem recordSyms_encodeRecord_of_paddedSyms {mcc mnc : Code} {m0 m1 m2 n0 n1 n2 : Sym}
    (hmcc : paddedSyms mcc = [m0, m1, m2]) (hmnc : paddedSyms mnc = [n0, n1, n2]) :
    recordSyms (encodeRecord mcc mnc) = #v[m1, m0, n2, m2, n1, n0, 0x4, 0x0, 0x8, 0x0] := by
  simp only [paddedSyms, ← padded_eq_ite, List.cons.injEq, and_true] at hmcc hmnc
  obtain ⟨rfl, rfl, rfl⟩ := hmcc
  obtain ⟨rfl, rfl, rfl⟩ := hmnc
  exact recordSyms_encodeRecord mcc mnc

end Sys2Proof.Machine
end

section
/-! SUPPORT. A standalone decode of a string (R101, R166). -/

namespace Sys2Proof.Machine

/-- A standalone decode sees the first six characters of its string only (R101, R166). -/
theorem standaloneDecode_congr (lc : Lowercase) {x y : Text} (h : x.take 6 = y.take 6) :
    standaloneDecode lc y = standaloneDecode lc x := by
  have hlength : (x.take 6).length = (y.take 6).length := congrArg _ h
  simp only [List.length_take] at hlength
  simp only [standaloneDecode, h, show y.length < 6 ↔ x.length < 6 by omega]

/-- A standalone decode of a string that gives a request prints the codes of its DEC response (R166, R167). -/
theorem hostDecode_of_standaloneDecode {lc : Lowercase} {x : Text} {r : Record}
    (h : standaloneDecode lc x = some (encode (.dec r))) (s : State) :
    (hostDecode lc x s).1 = some (symsText (decodeMcc r), symsText (decodeMnc r)) := by
  obtain ⟨t, hask⟩ := askBlock_eq [encode (.dec r)] s
  have hresponse : wordResponse s.names (encode (.dec r)) = decResponse r := wordResponse_ok (decode_encode _)
  simp only [hostDecode, h, hask, List.map_cons, List.head?_cons, Option.map_some, hresponse, decodedTexts_decResponse]

/-- A string that starts with six symbols gives the DEC request of the symbols and four zeros (R166). -/
theorem standaloneDecode_symsText (lc : Lowercase) {l : List Sym} (h : 6 ≤ l.length) :
    standaloneDecode lc (symsText l) = some (encode (.dec (recordOfSyms (l.take 6)))) := by
  have htake : (symsText l).take 6 = symsText (l.take 6) := List.map_take.symm
  simp only [standaloneDecode, symsText_length, if_neg h.not_gt, htake, symsOfText_symsText, Option.map_some]

/-- A record read from the first six of ten symbols has them as its r0..r5 (R44, R166). -/
theorem getElem_recordSyms_recordOfSyms_take (r : Vector Sym 10) {i : Nat} (h : i < 6) :
    (recordSyms (recordOfSyms (r.toList.take 6)))[i] = r[i] := by
  simp [recordOfSyms, List.getElem?_take, h]

end Sys2Proof.Machine
end

section
/-! The statements of 42_decoder.md. -/

namespace Sys2Proof.Machine

/-- Settles O17: ENC reads the padded symbols of the decoded codes, which are the kept symbols and then fillers. -/
theorem decThenEncMovesFillersToTheEnd : Obligations.DecThenEncMovesFillersToTheEnd := by
  intro record s
  refine ⟨_, _, exec_dec record s, exec_enc _ _ _, ?_⟩
  simp only [complete_rspWord, rspData_decResponse, rspData_encResponse, payloadMcc_decodeData, payloadMnc_decodeData]
  have hmcc := paddedSyms_codeOfSyms (decodeMcc_length_le record)
  have hmnc := paddedSyms_codeOfSyms (decodeMnc_length_le record)
  refine ⟨fun hm hn => ?_, (selectMcc_encodeRecord _ _).trans hmcc, (selectMnc_encodeRecord _ _).trans hmnc,
    ?_, ?_, ?_, ?_, fun h => ?_⟩
  · exact recordSyms_encodeRecord_of_paddedSyms (hmcc.trans (slots_removeFillers hm))
      (hmnc.trans (slots_removeFillers hn))
  iterate 4 · simp only [recordSyms_encodeRecord]; rfl
  · have hdata : decodeData record = decodeData 0xF321410000 := decodeData_congr h
    rw [← payloadMcc_decodeData, ← payloadMnc_decodeData, hdata]
    decide

/-- Settles O12: DATA is the two decoded codes in the ENC layout. -/
theorem decWritesTheCodesWithoutFillers : Obligations.DecWritesTheCodesWithoutFillers := by
  intro record s
  refine ⟨_, exec_dec record s, ?_⟩
  simp only [complete_rspWord, rspData_decResponse, payloadMcc_decodeData, payloadMnc_decodeData]
  exact ⟨rfl, rfl, extractLsb_decodeData_low record,
    (toNat_len_codeOfSyms (decodeMcc_length_le record)).trans_le (decodeMcc_length_le record),
    (toNat_len_codeOfSyms (decodeMnc_length_le record)).trans_le (decodeMnc_length_le record),
    ⟨_, decode_enc_decodeData record⟩, okEcho_complete_mkResponse _ _ _ s,
    emptyText_complete_mkResponse _ _ _ s, rfl, sameInterface_complete _ s⟩

/-- Settles O13: the word is illegal by R67 or decodes to DEC of its payload; the example's response is evaluated. -/
theorem decRequestDoesWhatR105Says : Obligations.DecRequestDoesWhatR105Says := by
  intro w rest s hp hop
  refine ⟨fun hrsvd => step_of_illegalWord hp (.inr (.inl hrsvd)), fun hrsvd => ?_, fun hw => ?_⟩
  · have hd := (decode_eq_dec_iff w _).mpr ⟨⟨hop, hrsvd⟩, rfl⟩
    rw [step_of_decode_ok hp hd]
    simp only [commandData, decodeData, decodeMcc_eq, decodeMnc_eq, getElem_recordSyms_reqPayload]
    rfl
  · subst hw
    exact step_of_decode_ok hp (i := .dec 0x1300624080) rfl

/-- Settles O14: the present symbols of the two codes are the kept symbols, and only r0..r5 are read. -/
theorem decCornerCases : Obligations.DecCornerCases := by
  intro record s
  refine ⟨_, exec_dec record s, ?_⟩
  simp only [complete_rspWord, rspData_decResponse, payloadMcc_decodeData, payloadMnc_decodeData,
    presentSyms_codeOfSyms (decodeMcc_length_le record), presentSyms_codeOfSyms (decodeMnc_length_le record),
    toNat_len_codeOfSyms (decodeMcc_length_le record), toNat_len_codeOfSyms (decodeMnc_length_le record)]
  refine ⟨fun h0 h1 h2 h3 h4 h5 => ?_, fun h0 h1 h2 h3 h4 h5 => ?_, fun h1 h0 h3 => ?_, fun h5 h4 h2 => ?_,
    fun record' h => ?_, rspStatus_packRsp _ _ _, rfl, rfl⟩
  · simp [decodeMcc_eq, decodeMnc_eq, codeOfSyms, h0, h1, h2, h3, h4, h5]
  · simp [decodeMcc_eq, decodeMnc_eq, h0, h1, h2, h3, h4, h5]
  · exact removeFillers_of_ne_filler h1 h0 h3
  · exact removeFillers_of_ne_filler h5 h4 h2
  · rw [exec_dec, decResponse, decodeData_congr h, ← decResponse]

/-- Settles O15: the symbols DEC selects from an ENC result are the padded symbols. -/
theorem decUndoesTheInterleave : Obligations.DecUndoesTheInterleave := by
  intro mcc mnc s
  refine ⟨_, _, exec_enc mcc mnc s, exec_dec _ _, ?_⟩
  simp only [complete_rspWord, rspData_encResponse, rspData_decResponse, payloadMcc_decodeData, payloadMnc_decodeData,
    presentSyms_codeOfSyms (decodeMcc_length_le _), presentSyms_codeOfSyms (decodeMnc_length_le _)]
  have hmcc := selectMcc_encodeRecord mcc mnc
  have hmnc := selectMnc_encodeRecord mcc mnc
  exact ⟨hmcc, hmnc, congrArg removeFillers hmcc, congrArg removeFillers hmnc⟩

/-- Settles O56: the host converts the first six characters, and DEC reads the six symbols they give. -/
theorem standaloneDecodeReadsSixCharacters : Obligations.StandaloneDecodeReadsSixCharacters := by
  intro lc x s
  refine ⟨fun hx => ?_, fun y h => ?_, fun r h => ?_⟩
  · simp [hostDecode, standaloneDecode, hx]
  · simp only [hostDecode, standaloneDecode_congr lc h]
  · have hrequest := (standaloneDecode_congr lc h.symm).trans (standaloneDecode_symsText lc (l := r.toList) (by simp))
    rw [hostDecode_of_standaloneDecode hrequest s]
    simp (disch := decide) only [decodeMcc_eq, decodeMnc_eq, getElem_recordSyms_recordOfSyms_take]

end Sys2Proof.Machine
end

section
/-! SUPPORT. The response of a capability command: its DATA holds the numbers of the tokens and W at the places of R134,
and its text is what they render to. -/

namespace Sys2Proof.Machine

/-- CAPL completes with its response (R135). -/
theorem exec_capl (b : Byte) (s : State) :
    exec (.capl b) s = .next (complete (capabilityResponse 0x3 s.names (lteTokens b) (lteWarn b)) s) := rfl

/-- CAPG completes with its response (R136). -/
theorem exec_capg (b : Byte) (s : State) :
    exec (.capg b) s = .next (complete (capabilityResponse 0x4 s.names (gsmTokens b) (gsmWarn b)) s) := rfl

/-- The tokens of CAPL fit the four slots of DATA (R134, R138). -/
theorem lteTokens_length_le_four (b : Byte) : (lteTokens b).length ≤ 4 := (lteTokens_length b).trans (by decide)

/-- CAPL and CAPG alike complete with the response of at most 4 tokens (R138). -/
theorem exec_capability {i : Instr} {b : Byte} (h : i = .capl b ∨ i = .capg b) (s : State) :
    ∃ op toks w, toks.length ≤ 4 ∧ exec i s = .next (complete (capabilityResponse op s.names toks w) s) := by
  rcases h with rfl | rfl
  · exact ⟨_, _, _, lteTokens_length_le_four b, exec_capl b s⟩
  · exact ⟨_, _, _, gsmTokens_length b, exec_capg b s⟩

/-- DATA of a capability response is its packed tokens and W (R134). -/
@[simp] theorem rspData_capabilityResponse (op : BitVec 4) (names : OpenNames) (toks : List Token) (w : Bool) :
    rspData (capabilityResponse op names toks w).word = capabilityData toks w :=
  rspData_packRsp _ _ _

/-- The packed DATA by the numbers of the tokens (R134). -/
theorem capabilityData_eq (toks : List Token) (w : Bool) :
    capabilityData toks w = 0#20 ++ BitVec.ofNat 3 (toks.map tokenId).length ++ BitVec.ofBool w ++
      (toks.map tokenId).getD 0 0 ++ (toks.map tokenId).getD 1 0 ++ (toks.map tokenId).getD 2 0 ++
      (toks.map tokenId).getD 3 0 := by
  rw [List.length_map]
  rfl

/-- A count of at most 4 tokens fits the 3 bits of TCOUNT, so the fields of DATA are those that were packed (R134). -/
theorem holdsTokens_capabilityData {toks : List Token} (h : toks.length ≤ 4) (w : Bool) :
    HoldsTokens (capabilityData toks w) (toks.map tokenId) w := by
  have hcount : (BitVec.ofNat 3 (toks.map tokenId).length).toNat = (toks.map tokenId).length := by
    rw [List.length_map, BitVec.toNat_ofNat, Nat.mod_eq_of_lt (by omega)]
  rw [capabilityData_eq]
  unfold HoldsTokens
  simp (disch := omega) only [extractLsb_eq, field_append_high, field_append_low]
  exact ⟨field_whole _, (congrArg BitVec.toNat (field_whole _)).trans hcount, field_whole _, field_whole _,
    field_whole _, field_whole _, field_whole _⟩

/-- The host reads the text of the token numbers, for a NAME that R131 allows (R28, R139). -/
theorem responseText_capabilityResponse {names : OpenNames} (hnames : names.wellFormed = true) {toks : List Token}
    (h : toks.length ≤ 4) (op : BitVec 4) (w : Bool) :
    responseText (capabilityResponse op names toks w) = numbersText names (toks.map tokenId) w := by
  rw [numbersText_map_tokenId]
  exact responseText_mkResponse _ _ _ _ (render_length_le names hnames toks w h)

/-- TEXT and TEXT_LEN after a capability command are the text of the token numbers and its length (R13). -/
theorem text_capabilityResponse (op : BitVec 4) (names : OpenNames) (toks : List Token) (w : Bool) :
    (capabilityResponse op names toks w).text = textBuffer (numbersText names (toks.map tokenId) w) ∧
    (capabilityResponse op names toks w).textLen =
      BitVec.ofNat 8 (numbersText names (toks.map tokenId) w).length := by
  rw [numbersText_map_tokenId]
  exact ⟨rfl, rfl⟩

/-- The first TCOUNT slots of DATA are the token numbers it holds (R134). -/
theorem take_slots_of_holdsTokens {d : BitVec 40} {ks : List (BitVec 4)} {w : Bool} (hd : HoldsTokens d ks w)
    (h : ks.length ≤ 4) :
    [d.extractLsb 15 12, d.extractLsb 11 8, d.extractLsb 7 4, d.extractLsb 3 0].take (d.extractLsb 19 17).toNat =
      ks := by
  obtain ⟨-, hcount, -, h0, h1, h2, h3⟩ := hd
  rw [hcount, h0, h1, h2, h3]
  match ks, h with
  | [], _ => rfl
  | [_], _ => rfl
  | [_, _], _ => rfl
  | [_, _, _], _ => rfl
  | [_, _, _, _], _ => rfl

/-- WARN is bit 16 of DATA (R134). -/
theorem getLsbD_of_holdsTokens {d : BitVec 40} {ks : List (BitVec 4)} {w : Bool} (hd : HoldsTokens d ks w) :
    d.getLsbD 16 = w := by
  obtain ⟨-, -, hwarn, -⟩ := hd
  simpa using congrArg (fun v => v.getLsbD 0) hwarn

/-- A response without tokens and without the warning: no slot is filled and the text is empty (R129, R138). -/
theorem data_text_of_no_tokens {toks : List Token} {w : Bool} (htoks : toks = []) (hw : w = false) (op : BitVec 4)
    (s : State) :
    HoldsTokens (capabilityData toks w) [] false ∧ EmptyText (complete (capabilityResponse op s.names toks w) s) := by
  subst htoks hw
  exact ⟨holdsTokens_capabilityData (toks := []) (Nat.zero_le 4) false, emptyText_complete_mkResponse .ok op _ s⟩

/-- A response without tokens but with the warning: the text is exactly the suffix (R132, R138). -/
theorem data_text_of_no_tokens_warn {toks : List Token} {w : Bool} (htoks : toks = []) (hw : w = true) (op : BitVec 4)
    (names : OpenNames) :
    HoldsTokens (capabilityData toks w) [] true ∧
    responseText (capabilityResponse op names toks w) = txt " -- WARNING: Reserved bits set" := by
  subst htoks hw
  exact ⟨holdsTokens_capabilityData (toks := []) (Nat.zero_le 4) true,
    responseText_mkResponse _ _ _ warnText (by decide)⟩

end Sys2Proof.Machine
end

section
/-! SUPPORT. The tokens and W of a capability byte: by the bits and sub-fields of the pseudocode of R135 and R136, and
with a mode sub-field whose enable bit is clear (R127). -/

namespace Sys2Proof.Machine

/-- The number of a token listed when its bit is set (R120, R130). -/
theorem map_tokenId_tokenIf (set : Bool) (t : Token) :
    (tokenIf set t).map tokenId = if set then [tokenId t] else [] := by
  cases set <;> rfl

/-- The number of an E-UTRAN mode's token (R122, R130). -/
theorem tokenId_eutranToken (em : BitVec 2) :
    tokenId (eutranToken em) = if em = 1#2 then 3 else if em = 2#2 then 4 else 2 := by
  revert em; decide

/-- The number of a GSM mode's token (R125, R130). -/
theorem tokenId_gsmToken (gm : BitVec 2) :
    tokenId (gsmToken gm) = if gm = 1#2 then 7 else if gm = 2#2 then 8 else 6 := by
  revert gm; decide

/-- W of the LTE/UTRAN byte is whether its field 2..0 is not 0 (R123, R135), checked at each of the 256 bytes. -/
theorem lteWarn_eq_field (b : Byte) : lteWarn b = decide (b.extractLsb 2 0 ≠ 0#3) := by
  revert b; decide

/-- W of the GSM/CDMA byte is whether its field 1..0 is not 0 (R126, R136), checked at each of the 256 bytes. -/
theorem gsmWarn_eq_field (b : Byte) : gsmWarn b = decide (b.extractLsb 1 0 ≠ 0#2) := by
  revert b; decide

/-- Bytes with reserved bits only give CAPL no token and the warning (R138). -/
theorem lte_of_reserved_only (b : Byte) : 0x01 ≤ b.toNat → b.toNat ≤ 0x07 → lteTokens b = [] ∧ lteWarn b = true := by
  revert b; decide

/-- Bytes with reserved bits only give CAPG no token and the warning (R138). -/
theorem gsm_of_reserved_only (b : Byte) : 0x01 ≤ b.toNat → b.toNat ≤ 0x03 → gsmTokens b = [] ∧ gsmWarn b = true := by
  revert b; decide

/-- CAPL does not read EM while the E-UTRAN bit is clear (R127). -/
theorem lteTokens_of_clear {b : Byte} (h : b[6] = false) :
    lteTokens b = tokenIf (b.getLsbD 7) .utran ++ tokenIf (b.getLsbD 3) .ngRan := by
  simp [lteTokens, h, tokenIf]

/-- CAPG does not read GM while the GSM bit is clear (R127). -/
theorem gsmTokens_of_clear {b : Byte} (h : b[7] = false) :
    gsmTokens b = tokenIf (b.getLsbD 6) .gsmCompact ++ tokenIf (b.getLsbD 5) .cdmaHrpd ++
      tokenIf (b.getLsbD 4) .cdma1x := by
  simp [gsmTokens, h, tokenIf]

/-- Clearing EM keeps the tokens and W of a byte whose E-UTRAN bit is clear (R127). -/
theorem lte_clearMode {b : Byte} (h : b[6] = false) :
    lteTokens (b &&& ~~~0x30#8) = lteTokens b ∧ lteWarn (b &&& ~~~0x30#8) = lteWarn b := by
  constructor
  · rw [lteTokens_of_clear h, lteTokens_of_clear (by simp [h])]
    simp
  · simp [lteWarn, BitVec.and_assoc]

/-- Clearing GM keeps the tokens and W of a byte whose GSM bit is clear (R127). -/
theorem gsm_clearMode {b : Byte} (h : b[7] = false) :
    gsmTokens (b &&& ~~~0x0C#8) = gsmTokens b ∧ gsmWarn (b &&& ~~~0x0C#8) = gsmWarn b := by
  constructor
  · rw [gsmTokens_of_clear h, gsmTokens_of_clear (by simp [h])]
    simp
  · simp [gsmWarn, BitVec.and_assoc]

end Sys2Proof.Machine
end

section
/-! SUPPORT. How long a rendered text is with the default entries of NAME (R131, R139). -/

namespace Sys2Proof.Machine

/-- The length of a rendered text: the names, a separator between each two, and the suffix (R129, R132). -/
theorem render_length (names : OpenNames) (toks : List Token) (w : Bool) :
    (render names toks w).length =
      (toks.map fun t => 2 + (nameOf names t).length).sum - 2 + if w then 30 else 0 := by
  have hsep : sep.length = 2 := by decide
  have hsuffix : (if w then warnText else []).length = if w then 30 else 0 := by cases w <;> decide
  rw [render, List.length_append, hsuffix]
  cases toks with
  | nil => rfl
  | cons t ts =>
    simp only [List.map_cons, join_length, List.map_map, Function.comp_def, hsep, List.sum_cons]
    omega

/-- The length of each name of the table of R131, its OPEN entries at their defaults. -/
def defaultNameLength : Token → Nat
  | .utran => 5
  | .eutranBoth => 29
  | .eutranNb => 26
  | .eutranWb => 26
  | .ngRan => 6
  | .gsmBoth => 16
  | .gsmOnly => 3
  | .ecGsmOnly => 10
  | .gsmCompact => 11
  | .cdmaHrpd => 13
  | .cdma1x => 14

theorem nameOf_defaultNames_length (t : Token) : (nameOf defaultNames t).length = defaultNameLength t := by
  cases t <;> decide

/-- The length of the text of tokens and W with the default entries (R139). -/
def defaultTextLength (toks : List Token) (w : Bool) : Nat :=
  (toks.map fun t => 2 + defaultNameLength t).sum - 2 + if w then 30 else 0

theorem render_defaultNames_length (toks : List Token) (w : Bool) :
    (render defaultNames toks w).length = defaultTextLength toks w := by
  simp only [render_length, nameOf_defaultNames_length, defaultTextLength]

/-- The longest CAPL text has 74 bytes, and R139 lists the bytes that reach it; checked at each of the 256 bytes. -/
theorem defaultTextLength_lte (b : Byte) :
    defaultTextLength (lteTokens b) (lteWarn b) ≤ 74 ∧
    (defaultTextLength (lteTokens b) (lteWarn b) = 74 ↔
      (0xC9 ≤ b.toNat ∧ b.toNat ≤ 0xCF) ∨ (0xF9 ≤ b.toNat ∧ b.toNat ≤ 0xFF)) := by
  revert b; decide

/-- The longest CAPG text has 90 bytes, and R139 lists the bytes that reach it; checked at each of the 256 bytes. -/
theorem defaultTextLength_gsm (b : Byte) :
    defaultTextLength (gsmTokens b) (gsmWarn b) ≤ 90 ∧
    (defaultTextLength (gsmTokens b) (gsmWarn b) = 90 ↔
      (0xF1 ≤ b.toNat ∧ b.toNat ≤ 0xF3) ∨ (0xFD ≤ b.toNat ∧ b.toNat ≤ 0xFF)) := by
  revert b; decide

/-- TEXT_LEN is the length of the rendered text, for a NAME that R131 allows: it is at most TEXT_MAX (R139). -/
theorem textLen_capabilityResponse {names : OpenNames} (hnames : names.wellFormed = true) {toks : List Token}
    (h : toks.length ≤ 4) (op : BitVec 4) (w : Bool) :
    (capabilityResponse op names toks w).textLen.toNat = (render names toks w).length :=
  textLen_toNat (render_length_le names hnames toks w h)

end Sys2Proof.Machine
end

section
/-! The statements of 43_capability.md. -/

namespace Sys2Proof.Machine

/-- Settles O18: the masks give the numbers of the tokens, which DATA holds and the text renders. -/
theorem caplListsTheTechnologies : Obligations.CaplListsTheTechnologies := by
  intro b s
  have hn := lteTokens_length_le_four b
  obtain ⟨htext, hlen⟩ := text_capabilityResponse 0x3 s.names (lteTokens b) (lteWarn b)
  rw [lteNumbers_eq]
  refine ⟨_, exec_capl b s, ?_, htext, hlen, fun hnames => responseText_capabilityResponse hnames hn _ _,
    okEcho_complete_mkResponse _ _ _ s, rfl, sameInterface_complete _ s⟩
  rw [complete_rspWord, rspData_capabilityResponse]
  exact holdsTokens_capabilityData hn (lteWarn b)

/-- Settles O19: the masks give the numbers of the tokens, which DATA holds and the text renders. -/
theorem capgListsTheTechnologies : Obligations.CapgListsTheTechnologies := by
  intro b s
  have hn := gsmTokens_length b
  obtain ⟨htext, hlen⟩ := text_capabilityResponse 0x4 s.names (gsmTokens b) (gsmWarn b)
  rw [gsmNumbers_eq]
  refine ⟨_, exec_capg b s, ?_, htext, hlen, fun hnames => responseText_capabilityResponse hnames hn _ _,
    okEcho_complete_mkResponse _ _ _ s, rfl, sameInterface_complete _ s⟩
  rw [complete_rspWord, rspData_capabilityResponse]
  exact holdsTokens_capabilityData hn (gsmWarn b)

/-- Settles O20: the word is illegal by R67 or decodes to CAPL of its byte; the example's response is evaluated. -/
theorem caplRequestDoesWhatR135Says : Obligations.CaplRequestDoesWhatR135Says := by
  intro w rest s hp hop
  refine ⟨fun hill => step_of_illegalWord hp ?_, fun hrsvd hcap => ?_, fun hw => ?_⟩
  · exact .inr (hill.imp_right fun hcap => .inr ⟨.inl hop, hcap⟩)
  · have hd := (decode_eq_capl_iff w _).mpr ⟨⟨hop, hrsvd, hcap⟩, rfl⟩
    rw [step_of_decode_ok hp hd, commandData, commandText, capabilityData_eq, ← numbersText_map_tokenId]
    simp only [lteTokens, List.map_append, map_tokenId_tokenIf, tokenId_eutranToken, lteWarn_eq_field]
    rfl
  · subst hw
    exact step_of_decode_ok hp (i := .capl 0x40) rfl

/-- Settles O21: the word is illegal by R67 or decodes to CAPG of its byte; the example's response is evaluated. -/
theorem capgRequestDoesWhatR136Says : Obligations.CapgRequestDoesWhatR136Says := by
  intro w rest s hp hop
  refine ⟨fun hill => step_of_illegalWord hp ?_, fun hrsvd hcap => ?_, fun hw => ?_⟩
  · exact .inr (hill.imp_right fun hcap => .inr ⟨.inr hop, hcap⟩)
  · have hd := (decode_eq_capg_iff w _).mpr ⟨⟨hop, hrsvd, hcap⟩, rfl⟩
    rw [step_of_decode_ok hp hd, commandData, commandText, capabilityData_eq, ← numbersText_map_tokenId]
    simp only [gsmTokens, List.map_append, map_tokenId_tokenIf, tokenId_gsmToken, gsmWarn_eq_field]
    rfl
  · subst hw
    exact step_of_decode_ok hp (i := .capg 0x80) rfl

/-- Settles O22: the tokens and W at the bytes of each case. -/
theorem capabilityCornerCases : Obligations.CapabilityCornerCases := by
  intro b s
  refine ⟨_, _, exec_capl b s, exec_capg b s, ?_⟩
  simp only [complete_rspWord, rspData_capabilityResponse, response_complete]
  have hlte := holdsTokens_capabilityData (lteTokens_length_le_four b) (lteWarn b)
  have hgsm := holdsTokens_capabilityData (gsmTokens_length b) (gsmWarn b)
  refine ⟨?zero, fun hlo hhi => ?reservedLte, fun hlo hhi => ?reservedGsm, ?modeLte, ?modeGsm, ?all,
    ?countLte, ?countGsm⟩
  case zero =>
    rintro rfl
    obtain ⟨hl, hlText⟩ := data_text_of_no_tokens (toks := lteTokens 0x00) (w := lteWarn 0x00) rfl rfl 0x3 s
    obtain ⟨hg, hgText⟩ := data_text_of_no_tokens (toks := gsmTokens 0x00) (w := gsmWarn 0x00) rfl rfl 0x4 s
    exact ⟨hl, hlText, hg, hgText⟩
  case reservedLte =>
    obtain ⟨htoks, hw⟩ := lte_of_reserved_only b hlo hhi
    exact data_text_of_no_tokens_warn htoks hw _ _
  case reservedGsm =>
    obtain ⟨htoks, hw⟩ := gsm_of_reserved_only b hlo hhi
    exact data_text_of_no_tokens_warn htoks hw _ _
  case modeLte =>
    rintro (rfl | rfl | rfl) <;> exact data_text_of_no_tokens rfl rfl _ s
  case modeGsm =>
    rintro (rfl | rfl | rfl) <;> exact data_text_of_no_tokens rfl rfl _ s
  case all =>
    rintro rfl
    exact ⟨hlte, hgsm⟩
  case countLte =>
    obtain ⟨-, hcount, -⟩ := hlte
    rw [hcount, List.length_map]
    exact lteTokens_length b
  case countGsm =>
    obtain ⟨-, hcount, -⟩ := hgsm
    rw [hcount, List.length_map]
    exact gsmTokens_length b

/-- Settles O23: neither command reads a mode sub-field whose enable bit is clear. -/
theorem modeBitsWithoutTheirEnableAreIgnored : Obligations.ModeBitsWithoutTheirEnableAreIgnored := by
  refine ⟨fun b s => ⟨_, exec_capl b s, fun h => ?_⟩, fun b s => ⟨_, exec_capg b s, fun h => ?_⟩,
    fun s => ⟨_, _, exec_capl 0x30 s, ?_, exec_capg 0x0C s, ?_⟩, rfl, rfl, rfl, rfl⟩
  · obtain ⟨htoks, hw⟩ := lte_clearMode (b := b) (by simpa using congrArg (fun v => v.getLsbD 6) h)
    rw [exec_capl, htoks, hw]
  · obtain ⟨htoks, hw⟩ := gsm_clearMode (b := b) (by simpa using congrArg (fun v => v.getLsbD 7) h)
    rw [exec_capg, htoks, hw]
  · rw [complete_rspWord, rspData_capabilityResponse]
    obtain ⟨hdata, -⟩ := data_text_of_no_tokens (toks := lteTokens 0x30) (w := lteWarn 0x30) rfl rfl 0x3 s
    exact hdata
  · rw [complete_rspWord, rspData_capabilityResponse]
    obtain ⟨hdata, -⟩ := data_text_of_no_tokens (toks := gsmTokens 0x0C) (w := gsmWarn 0x0C) rfl rfl 0x4 s
    exact hdata

/-- Settles O24: the slots and WARN of DATA give back the token numbers and W, and the text is theirs. -/
theorem textRendersTheTokens : Obligations.TextRendersTheTokens := by
  intro b s i hi hnames
  obtain ⟨op, toks, w, hn, hexec⟩ := exec_capability hi s
  have hholds := holdsTokens_capabilityData hn w
  have hslots := take_slots_of_holdsTokens hholds ((List.length_map _).trans_le hn)
  refine ⟨_, hexec, ?_⟩
  simp only [complete_rspWord, rspData_capabilityResponse, response_complete, hslots, getLsbD_of_holdsTokens hholds,
    responseText_capabilityResponse hnames hn]
  refine ⟨rfl, fun hnone hwarn => ?_, fun hnone hwarn => ?_⟩
  · rw [hnone, hwarn]; rfl
  · rw [hnone, hwarn]; rfl

/-- Settles O25: TEXT_LEN is the length of the rendered text, computed from the lengths of the default names. -/
theorem textLengthIsBounded : Obligations.TextLengthIsBounded := by
  have hlte := lteTokens_length_le_four
  have hgsm := gsmTokens_length
  refine ⟨fun b s hnames => ⟨_, _, exec_capl b s, exec_capg b s, ?_⟩,
    fun b s hdefault => ⟨_, _, exec_capl b s, exec_capg b s, ?_⟩⟩ <;>
    simp only [complete_textLen, response_complete]
  · rw [textLen_capabilityResponse hnames (hlte b), textLen_capabilityResponse hnames (hgsm b), lteNumbers_eq,
      gsmNumbers_eq, numbersText_map_tokenId, numbersText_map_tokenId]
    exact ⟨render_length_le _ hnames _ _ (hlte b), render_length_le _ hnames _ _ (hgsm b), rfl, rfl⟩
  · have hnames : defaultNames.wellFormed = true := by decide +kernel
    obtain ⟨hlteMax, hlteIff⟩ := defaultTextLength_lte b
    obtain ⟨hgsmMax, hgsmIff⟩ := defaultTextLength_gsm b
    rw [hdefault, textLen_capabilityResponse hnames (hlte b), textLen_capabilityResponse hnames (hgsm b),
      render_defaultNames_length, render_defaultNames_length]
    refine ⟨hlteMax, hgsmMax, hlteIff, hgsmIff, ?_⟩
    rintro rfl
    exact ⟨(responseText_capabilityResponse hnames (hlte 0xFF) _ _).trans (by decide),
      (responseText_capabilityResponse hnames (hgsm 0xFF) _ _).trans (by decide)⟩

end Sys2Proof.Machine
end

section
/-! SUPPORT. A run of all pending interactions, by the host's obligation (R165, R192). -/

namespace Sys2Proof.Machine

/-- A step takes the next interaction off the list, and whether the host obeys does not change by it: the rest is judged
by the RSP_VALID the interaction leaves (R29, R165). -/
theorem step_hostObeys {s t : State} {e : HostEvent} {rest : List HostEvent} (hp : s.pending = e :: rest)
    (h : step s = .next t) : t.pending = rest ∧ hostObeys t.rspValid rest = hostObeys s.rspValid (e :: rest) := by
  rw [step_cons hp] at h
  rcases interact_cases e { s with pending := rest } with
    ⟨w, rfl, hi⟩ | ⟨rfl, hi⟩ | ⟨what, o, rfl, ha, -, hi⟩ | ⟨what, rfl, -, hi⟩ <;> rw [hi] at h <;> cases h
  · exact ⟨rfl, rfl⟩
  · exact ⟨rfl, rfl⟩
  · exact ⟨rfl, by rw [hostObeys, ha, Bool.true_and]⟩

/-- The run of a state whose next interaction completes is that step and the run of the state after it (R199). -/
theorem runPending_of_step {s t : State} {e : HostEvent} (hp : s.pending = e :: t.pending) (h : step s = .next t) :
    runPending s = runPending t := by
  rw [runPending, hp, List.length_cons, run_succ_next _ h, runPending]

/-- The run of a state whose next interaction is a forbidden read faults at it (R32, R199). -/
theorem runPending_of_forbidden {s : State} {what : ReadTarget} {rest : List HostEvent}
    (hp : s.pending = .read what :: rest) (ha : readAllowed s.rspValid what = false) :
    runPending s = .fault .readBeforeResponse := by
  rw [runPending, hp, List.length_cons, run_succ_fault _ (step_read_forbidden hp ha)]

end Sys2Proof.Machine
end

section
/-! SUPPORT. How an invocation of the host can end, and how it does when one check fails (R178 to R180). -/

namespace Sys2Proof.Machine

/-- A failing check ends the invocation with an error or a refusal (R166, R178). -/
theorem endFailed_cases (hc : HostConfig) (fs : List Failure) :
    (∃ e, endFailed hc fs = .failed e (errorMessage hc e)) ∨ endFailed hc fs = .refused := by
  unfold endFailed
  split
  · exact .inl ⟨_, rfl⟩
  · exact .inr rfl

/-- Everything an invocation can do: it prints a result, or it ends without one and leaves the block as it was
(R179, R180). -/
theorem hostMain_cases (hc : HostConfig) (args : List Text) (s : State) :
    (∃ out t, hostMain hc args s = (.printed out, t)) ∨
      (∃ result, hostMain hc args s = (result, s) ∧ result ≠ .blockStopped) := by
  simp only [hostMain]
  split_ifs with hargs hhelp
  · exact .inr ⟨_, rfl, by simp⟩
  · exact .inr ⟨_, rfl, by simp⟩
  · split
    next p _ =>
      obtain ⟨t, hrun⟩ := runPlan_eq p s
      exact .inl ⟨_, t, hrun⟩
    next fs _ =>
      refine .inr ⟨_, rfl, ?_⟩
      rcases endFailed_cases hc fs with ⟨e, he⟩ | he <;> simp [he]

/-- Table values that are all read have no failing check (R172, R173). -/
theorem failures_of_tables_eq_nil {lc : Lowercase} {raws : List Text} {rs : List (List Record)}
    (h : raws.mapM (tableRecords lc) = .ok rs) : raws.flatMap (fun t => failureOf (tableRecords lc t)) = [] := by
  induction raws generalizing rs with
  | nil => rfl
  | cons raw raws ih =>
    rw [List.mapM_cons] at h
    cases hraw : tableRecords lc raw with
    | error f => rw [hraw] at h; cases h
    | ok r =>
      rw [hraw] at h
      cases hraws : raws.mapM (tableRecords lc) with
      | error f => rw [hraws] at h; cases h
      | ok rs' => rw [List.flatMap_cons, hraw, ih hraws]; rfl

/-- A command line with a failing check has no plan (R179). -/
theorem planOf_of_failures {lc : Lowercase} {c : CommandLine} (h : checkFailures lc c ≠ []) :
    planOf lc c = .error (checkFailures lc c) := by
  unfold planOf
  split
  next ws rs hfailures hpairs htables =>
    refine absurd ?_ h
    rw [checkFailures, hfailures, hpairs, failures_of_tables_eq_nil htables]
    rfl
  next => rfl

/-- An invocation with one failing check, an error, ends with that error's message and leaves the block as it was
(R178, R179, R180). -/
theorem hostMain_of_one_error {hc : HostConfig} {args : List Text} {c : CommandLine} {e : HostError}
    (hscan : scanArgs args = c) (hhelp : c.help = false) (hfail : checkFailures hc.lowercase c = [.error e])
    (s : State) : hostMain hc args s = (.failed e (errorMessage hc e), s) := by
  have hplan : planOf hc.lowercase c = .error [.error e] := by
    rw [planOf_of_failures (by simp [hfail]), hfail]
  have hargs : args ≠ [] := by
    rintro rfl
    subst hscan
    cases hfail
  have hend : endFailed hc [.error e] = .failed e (errorMessage hc e) := by
    simp [endFailed, reported, Nat.mod_one]
  simp [hostMain, hargs, hscan, hhelp, hplan, hend]

/-- A command line that begins with a help flag asks for help, whatever follows (R177). -/
theorem scanArgs_help {flag : Text} (rest : List Text) (h : flag = txt "-h" ∨ flag = txt "--help") :
    (scanArgs (flag :: rest)).help = true := by
  have hhelp : isHelpFlag flag = true := by simpa [isHelpFlag] using h
  have htable : isTableFlag flag = false := by rcases h with rfl | rfl <;> decide
  cases rest <;> simp [scanArgs, htable, hhelp]

/-- No positional arguments are no requests (R168). -/
@[simp] theorem pairRequests_nil (lc : Lowercase) : pairRequests lc [] = .ok [] := rfl

/-- An odd number of arguments makes no pairs (R168). -/
theorem pairUp_of_odd {args : List Text} (h : args.length % 2 = 1) : pairUp args = none := by
  induction args using pairUp.induct with
  | case1 => cases h
  | case2 a => rfl
  | case3 a b rest ih =>
    rw [pairUp, ih (by simpa [Nat.add_assoc] using h), Option.map_none]

/-- A payload of a wrong length is malformed, whatever stands before the comma that begins it (R171, R172). -/
theorem tableRecords_of_bad_length (lc : Lowercase) {before payload : Text}
    (hbefore : before = [] ∨ before.getLast? = some (chr ',')) (hcomma : chr ',' ∉ payload)
    (h : payload.length = 0 ∨ payload.length % 10 ≠ 0) :
    tableRecords lc (before ++ payload) = .error (.error .malformed) := by
  have hlength : payloadLengthOk payload = false := by
    simp only [payloadLengthOk, decide_eq_false_iff_not]
    omega
  simp [tableRecords, tablePayload_append hbefore hcomma, hlength]

/-- A table flag and a table string of a wrong length are the error E_MALFORMED (R172, R178). -/
theorem hostMain_of_bad_length {hc : HostConfig} {flag before payload : Text} (hflag : isTableFlag flag = true)
    (hdash : startsDash (before ++ payload) = false) (hbefore : before = [] ∨ before.getLast? = some (chr ','))
    (hcomma : chr ',' ∉ payload) (h : payload.length = 0 ∨ payload.length % 10 ≠ 0) (s : State) :
    hostMain hc [flag, before ++ payload] s = (.failed .malformed (errorMessage hc .malformed), s) :=
  hostMain_of_one_error (scanArgs_table hflag hdash) rfl
    (by simp [checkFailures, tableRecords_of_bad_length _ hbefore hcomma h, failureOf]) s

/-- A command line that reads as one failing flag check ends with its error (R176, R177, R178). -/
theorem hostMain_of_flag_error {hc : HostConfig} {args : List Text} {e : HostError}
    (hscan : scanArgs args = ⟨[], [], false, [.error e]⟩) (s : State) :
    hostMain hc args s = (.failed e (errorMessage hc e), s) :=
  hostMain_of_one_error hscan rfl rfl s

end Sys2Proof.Machine
end

section
/-! SUPPORT. The report line of any record, and characters and symbols in both settings of HOST_LOWERCASE
(R121 to R133, R166, R167, R174). -/

namespace Sys2Proof.Machine

/-- The report line of a record: its two codes without fillers, and the technology texts of its bytes 3 and 4, for a
NAME that R131 allows (R103, R133, R174). -/
theorem recordLine_eq {names : OpenNames} (h : names.wellFormed = true) (j : Nat) (r : Record) :
    recordLine names j r = decimal j ++ txt ". MCC: " ++ symsText (decodeMcc r) ++ txt " MNC: " ++
      symsText (decodeMnc r) ++ txt " RAT(s): " ++
      numbersText names (lteNumbers (r.extractLsb 15 8)) (lteWarn (r.extractLsb 15 8)) ++ txt ", " ++
      numbersText names (gsmNumbers (r.extractLsb 7 0)) (gsmWarn (r.extractLsb 7 0)) ++ lf := by
  have hlte (b : Byte) :
      responseText (commandResponse names (.capl b)) = numbersText names (lteNumbers b) (lteWarn b) := by
    rw [lteNumbers_eq]
    exact responseText_capabilityResponse h (lteTokens_length_le_four b) _ _
  have hgsm (b : Byte) :
      responseText (commandResponse names (.capg b)) = numbersText names (gsmNumbers b) (gsmWarn b) := by
    rw [gsmNumbers_eq]
    exact responseText_capabilityResponse h (gsmTokens_length b) _ _
  have hcodes : decodedTexts (commandResponse names (.dec r)) = (symsText (decodeMcc r), symsText (decodeMnc r)) :=
    decodedTexts_decResponse r
  rw [recordLine, reportLine, hcodes, hlte, hgsm, recordByte_three, recordByte_four]

/-- No symbol is written as '-', so a text of records starts with none (R167, R176). -/
theorem startsDash_flatMap_recordText (rs : List Record) : startsDash (rs.flatMap recordText) = false := by
  have hsym (x : Sym) : charOf x ≠ chr '-' := by revert x; decide
  cases rs with
  | nil => rfl
  | cons r rs => simpa [startsDash, recordText, recordSyms, symsText] using hsym _

/-- A text made of two that do not start with '-' does not start with it (R176). -/
theorem startsDash_append {x y : Text} (hx : startsDash x = false) (hy : startsDash y = false) :
    startsDash (x ++ y) = false := by
  cases x with
  | nil => exact hy
  | cons c x => exact hx

/-- The ASCII code of a symbol's character: digits from '0', letters from 'A' (R167). -/
theorem toNat_charOf (x : Sym) : (charOf x).toNat = if x.toNat ≤ 9 then x.toNat + 48 else x.toNat + 55 := by
  revert x; decide

/-- A character is read as a symbol exactly when it is the symbol's character, or under `fold` its lowercase letter
(R166, R167). -/
theorem symOf_eq_some_iff (lc : Lowercase) (c : Byte) (x : Sym) :
    symOf lc c = some x ↔ c = charOf x ∨ (lc = .fold ∧ 10 ≤ x.toNat ∧ c.toNat = x.toNat + 87) := by
  constructor
  · intro h
    rw [← BitVec.toNat_inj, toNat_charOf]
    simp only [symOf] at h
    split_ifs at h with hdigit hletter hlower <;> obtain rfl := Option.some.inj h <;> rw [BitVec.toNat_ofNat]
    · exact .inl (by rw [if_pos (by omega)]; omega)
    · exact .inl (by rw [if_neg (by omega)]; omega)
    · exact .inr ⟨hlower.2.2, by omega, by omega⟩
  · rintro (rfl | ⟨rfl, hletter, hc⟩)
    · exact symOf_charOf lc x
    · have hx := x.isLt
      simp only [symOf]
      rw [if_neg (by omega), if_neg (by omega), if_pos ⟨by omega, by omega, trivial⟩, hc, Nat.add_sub_cancel,
        BitVec.ofNat_toNat, BitVec.setWidth_eq]

end Sys2Proof.Machine
end

section
/-! The statements of 60_exceptions.md. -/

namespace Sys2Proof.Machine

/-- Settles O40, by induction over the pending interactions: the next one completes and leaves the rest to be judged
likewise, or it is a forbidden read. -/
theorem runCompletesExactlyWhenTheHostObeys : Obligations.RunCompletesExactlyWhenTheHostObeys := by
  intro s
  generalize hpending : s.pending = es
  induction es generalizing s with
  | nil =>
    have hrun : runPending s = .next s := by rw [runPending, hpending, List.length_nil, run_zero]
    exact ⟨fun _ => ⟨s, hrun, hpending⟩, fun h => by simp [hostObeys] at h⟩
  | cons e rest ih =>
    rcases step_next_or_forbidden s with ⟨t, ht⟩ | ⟨what, rest', hread, ha⟩
    · obtain ⟨hrest, hobeys⟩ := step_hostObeys hpending ht
      rw [← hobeys, runPending_of_step (hpending.trans (by rw [hrest])) ht]
      exact ih t hrest
    · have hforbidden : hostObeys s.rspValid (.read what :: rest') = false := by rw [hostObeys, ha, Bool.false_and]
      rw [← hpending, hread, hforbidden]
      exact ⟨fun h => absurd h Bool.false_ne_true, fun _ => runPending_of_forbidden hread ha⟩

/-- Settles O49: the pairs' requests are the plan, and each record is the DATA that its request gets alone. -/
theorem pairsPrintTheAtLine : Obligations.PairsPrintTheAtLine := by
  refine ⟨fun tables answers => by simp [planOutput, atLine], fun hc ps s hne hps => ?_⟩
  choose! request hrequest using fun p hp => Option.ne_none_iff_exists'.mp (hps p hp).2.2
  have hdash : ∀ p ∈ ps, startsDash p.1 = false ∧ startsDash p.2 = false := fun p hp =>
    have ⟨hmcc, hmnc, _⟩ := hps p hp
    ⟨hmcc, hmnc⟩
  obtain ⟨t, hprint⟩ := hostMain_pairs hne hdash hrequest s
  rw [atLine_of_ne_nil (by simpa using hne), List.length_map] at hprint
  refine ⟨_, t, hprint, ?_⟩
  rw [List.forall₂_map_right_iff, List.forall₂_same]
  exact fun p hp => ⟨request p, _, hrequest p hp, (respondsAlone_iff _ _ _).mpr rfl, rfl⟩

/-- Settles O54: the table is read as its records, and each is reported by `recordLine_eq`. -/
theorem tablePrintsOneLineForEachRecord : Obligations.TablePrintsOneLineForEachRecord := by
  intro hc before records s hne hnames hbefore hdash
  obtain ⟨t, hprint⟩ := hostMain_table hc (flag := txt "-p") (by decide) hbefore hne
    (startsDash_append hdash (startsDash_flatMap_recordText records)) s
  refine ⟨t, hprint.trans ?_⟩
  simp only [recordLine_eq hnames, decodeMcc_eq, decodeMnc_eq]
  rfl

/-- Settles O27, by `step_of_illegalWord`. -/
theorem illegalWordTakesTheIllegalResponse : Obligations.IllegalWordTakesTheIllegalResponse :=
  fun _ _ _ => step_of_illegalWord

/-- Settles O50: the arguments are all positional and make no pairs, so E_PAIRING is the one failing check. -/
theorem oddPositionalsAreAnError : Obligations.OddPositionalsAreAnError := by
  intro hc args s hodd hdash
  have herror : hostMain hc args s = (.failed .pairing (errorMessage hc .pairing), s) :=
    hostMain_of_one_error (scanArgs_of_no_dash hdash) rfl
      (by simp [checkFailures, pairRequests, pairUp_of_odd hodd, failureOf]) s
  rw [herror]
  exact ⟨rfl, rfl⟩

/-- Settles O52: with the comma as the end of the preamble, and with no preamble, the payload is of a wrong length. -/
theorem badPayloadLengthIsAnError : Obligations.BadPayloadLengthIsAnError := by
  intro hc before payload s hcomma hlength
  have hlast : (before ++ txt ",").getLast? = some (chr ',') := List.getLast?_concat
  exact ⟨fun hdash => hostMain_of_bad_length (by decide) hdash (.inr hlast) hcomma hlength s,
    fun hdash => hostMain_of_bad_length (before := []) (by decide) hdash (.inl rfl) hcomma hlength s⟩

/-- Settles O53, by what an invocation can do: only one that prints a result runs a plan. -/
theorem hostErrorsNeverReachTheBlock : Obligations.HostErrorsNeverReachTheBlock := by
  intro hc args s
  rcases hostMain_cases hc args s with ⟨out, t, h⟩ | ⟨result, h, hresult⟩ <;> rw [h]
  · exact ⟨by simp, fun hnone => absurd rfl (hnone out)⟩
  · exact ⟨hresult, fun _ => rfl⟩

/-- Settles O46: the instances are the reset states of the configurations. -/
theorem instancesStartAtReset : Obligations.InstancesStartAtReset := by
  intro configs k s h
  rw [platformReset, List.getElem?_map] at h
  obtain ⟨names, hnames, rfl⟩ := Option.map_eq_some_iff.mp h
  exact ⟨rfl, rfl, hnames⟩

/-- Settles O51: the command line reads as one failing check of its flag. -/
theorem flagErrorsEndTheInvocation : Obligations.FlagErrorsEndTheInvocation := by
  intro hc flag value s
  refine ⟨fun hflag => ?_, fun hdash hp hplmn hh hhelp => ?_, fun e message => ⟨rfl, ?_, ?_⟩⟩
  · have htable : isTableFlag flag = true := by simpa [isTableFlag] using hflag
    exact ⟨hostMain_of_flag_error (by simp [scanArgs, htable]) s,
      fun hvalue => hostMain_of_flag_error (by simp [scanArgs, htable, hvalue]) s⟩
  · have htable : isTableFlag flag = false := by simp [isTableFlag, hp, hplmn]
    have hnohelp : isHelpFlag flag = false := by simp [isHelpFlag, hh, hhelp]
    exact hostMain_of_flag_error (by simp [scanArgs, htable, hnohelp, hdash]) s
  · simp [printedOn]
  · exact fun stream hstream => by simp [printedOn, hstream]

/-- Settles O59: help is looked for before any check. -/
theorem helpAndNoArgumentsSucceed : Obligations.HelpAndNoArgumentsSucceed := by
  intro hc s
  refine ⟨rfl, rfl, fun flag rest hflag => ?_, rfl⟩
  simp [hostMain, scanArgs_help rest hflag]

/-- Settles O48, by `symOf_eq_some_iff` for each setting. -/
theorem symbolsAndCharactersAgree : Obligations.SymbolsAndCharactersAgree := by
  refine ⟨by decide, fun c x => ?_, fun c x => ?_⟩
  · simp [symOf_eq_some_iff]
  · simp [symOf_eq_some_iff]

end Sys2Proof.Machine
end

section
/-! SUPPORT. What a reset event does, and what a run of requests leaves (R190, R194, R197). -/

namespace Sys2Proof.Machine

/-- A step that makes a reset clears the response registers and takes the reset off the list (R190). -/
theorem step_reset {s : State} {rest : List HostEvent} (h : s.pending = .reset :: rest) :
    step s = .next (resetEvent { s with pending := rest }) := by
  rw [step_cons h]
  rfl

/-- A run of requests completes, and of the earlier words nothing is left: it ends as if the last word alone had been
issued (R30, R194, R197). -/
theorem runPending_issues {ws : List Request} {w : Request} {s : State} (h : s.pending = (ws ++ [w]).map .issue) :
    runPending s = .next (complete (wordResponse s.names w) { s with pending := [] }) := by
  induction ws generalizing s with
  | nil =>
    rw [runPending_of_step h (step_issue h)]
    rfl
  | cons v ws ih =>
    rw [runPending_of_step h (step_issue h), ih rfl]
    rfl

end Sys2Proof.Machine
end

section
/-! The statements of 70_reset_and_hazards.md. -/

namespace Sys2Proof.Machine

/-- Settles O29, by `runPending_issues`: the last word's response is the one it gets alone after reset. -/
theorem everyRequestCompletes : Obligations.EveryRequestCompletes := by
  intro ws w s h
  exact ⟨_, runPending_issues h, rfl, rfl, rfl, (respondsAlone_iff s.names w _).mpr rfl⟩

/-- Settles O33: RSP_VALID is 0 in the reset state, so O30 says that a read of another register faults. -/
theorem resetLeavesNoResponse : Obligations.ResetLeavesNoResponse := by
  intro names
  exact ⟨rfl, rfl, rfl, rfl, fun what rest hwhat => readOfNoValueFaults _ what rest rfl rfl hwhat, rfl⟩

/-- Settles O34: the reset leaves RSP_VALID 0, so O30 says that a read of another register faults. -/
theorem resetEventClearsTheResponse : Obligations.ResetEventClearsTheResponse := by
  intro s rest h
  exact ⟨_, step_reset h, rfl, rfl, rfl, rfl,
    fun what rest' hwhat => readOfNoValueFaults _ what rest' rfl rfl hwhat⟩

end Sys2Proof.Machine
end
